-- ==== Sys2Proof/Word.lean ====
section
/-! DEFINITION. The word of the block: every register and every value is one 32-bit unsigned word (R5, R10);
bit 0 is the least significant bit. -/

namespace Sys2Proof

/-- One 32-bit register or value (R5, R10). -/
abbrev Word := BitVec 32

/-- One byte of the byte view of R38. -/
abbrev Byte := BitVec 8

end Sys2Proof
end

