-- ==== Sys2Proof/Config.lean ====
section
/-! DEFINITION. What an implementation fixes (the parameters of 00_scope.md R9) and the free values (`draw()` of R11).
The free values are opaque constants without a body: nothing can be proved of their value. -/

namespace Sys2Proof

/-- The parameter UNDEF_BITS (R9, R20): how a read answers in the bits no field names. -/
inductive UndefBits where
  | draw
  | storage
  deriving DecidableEq, Repr

/-- The parameters the model takes as arguments (R7, R8, R9). They stand in `State.params`, so a statement about
every state is a statement about every value of them; no step changes them (log 1). -/
structure Params where
  /-- N_UART, 1..16 (R7). -/
  nUart : Nat
  /-- CCU_BASE, a multiple of 4 (R8, D10). -/
  ccuBase : Nat
  /-- ADDR_WIDTH, at least 12 (R8, D10). -/
  addrWidth : Nat
  /-- UNDEF_BITS (R20). -/
  undefBits : UndefBits
  /-- EXTERNAL_MUTATION (R19). -/
  externalMutation : Bool
  deriving DecidableEq, Repr

/-- The number of SPI instances (R6). -/
abbrev nSpi : Nat := 2

/-- The modelled window extent in bytes (R9, R32). -/
abbrev windowExtent : Nat := 0x970

/-- The admitted parameter values: R7, and D10 for the base and the address width. -/
def Params.wf (p : Params) : Bool :=
  decide (1 ≤ p.nUart) && decide (p.nUart ≤ 16) && decide (p.ccuBase % 4 = 0) && decide (12 ≤ p.addrWidth) &&
    decide (p.ccuBase + windowExtent ≤ 2 ^ p.addrWidth)

/-- The values of the parameters in `State.reset`: R9's defaults, and for the three it leaves OPEN the D1 family's
values. PRESUMED (log 1). -/
def Config.defaultParams : Params :=
  { nUart := 6, ccuBase := 0x02001000, addrWidth := 32, undefBits := .draw, externalMutation := false }

/-- `draw()` (R11): the value of the n-th draw, chosen by the environment. A free value (log 2). -/
opaque Config.draw : Nat → Word

/-- The n-th free choice of the scheduler, where the spec gives no rule for it (R40; log 5). A free value. -/
opaque Config.choice : Nat → Nat

/-- RESET_UART_BGR (R133): one draw taken at reset. A free value (log 3). -/
opaque Config.resetUartBgr : Word

/-- RESET_SPI_CLK0 (R133): one draw taken at reset. A free value (log 3). -/
opaque Config.resetSpiClk0 : Word

/-- RESET_SPI_CLK1 (R133): one draw taken at reset. A free value (log 3). -/
opaque Config.resetSpiClk1 : Word

/-- RESET_SPI_BGR (R133): one draw taken at reset. A free value (log 3). -/
opaque Config.resetSpiBgr : Word

end Sys2Proof
end

