-- ==== Sys2Proof/Syntax.lean ====
section
/-! DEFINITION. The operations of the block as syntax: one constructor of `Instr` per row of spec/opcode_table.json
(30_encoding.md R49, R57), with its operands (R62), and the form in which a caller submits one. -/

namespace Sys2Proof

/-- The clock-source selection of an SPI clock register (R58). -/
inductive SpiClockSource where
  | hosc
  | pllPeri1x
  | pllPeri2x
  | pllAudio1Div2
  | pllAudio1Div5
  deriving DecidableEq, Repr

/-- The divide factor N (R60). -/
inductive FactorN where
  | n1
  | n2
  | n4
  | n8
  deriving DecidableEq, Repr

/-- The kind of a peripheral (R53). -/
inductive Kind where
  | uart
  | spi
  deriving DecidableEq, Repr

/-- The operations. `idx` is the descriptor's field I; `v`, `src`, `m`, `n` are the operands R62 lists, which are not
part of the descriptor. `m` is an integer whose range its type does not limit (R62, R97). -/
inductive Instr where
  /-- RD_UART_BGR (R68). -/
  | rdUartBgr
  /-- WR_UART_BGR (R69). -/
  | wrUartBgr (v : Word)
  /-- RD_SPI_CLK0 (R70). -/
  | rdSpiClk0
  /-- WR_SPI_CLK0 (R71). -/
  | wrSpiClk0 (v : Word)
  /-- RD_SPI_CLK1 (R72). -/
  | rdSpiClk1
  /-- WR_SPI_CLK1 (R73). -/
  | wrSpiClk1 (v : Word)
  /-- RD_SPI_BGR (R74). -/
  | rdSpiBgr
  /-- WR_SPI_BGR (R75). -/
  | wrSpiBgr (v : Word)
  /-- UART_GATE_MASK (R77). -/
  | uartGateMask (idx : BitVec 4) (v : Word)
  /-- UART_GATE_PASS (R78). -/
  | uartGatePass (idx : BitVec 4) (v : Word)
  /-- UART_ASSERT_RESET (R79). -/
  | uartAssertReset (idx : BitVec 4) (v : Word)
  /-- UART_DEASSERT_RESET (R80). -/
  | uartDeassertReset (idx : BitVec 4) (v : Word)
  /-- UART_GATE_GET (R81). -/
  | uartGateGet (idx : BitVec 4) (v : Word)
  /-- UART_RESET_GET (R82). -/
  | uartResetGet (idx : BitVec 4) (v : Word)
  /-- SPI_GATE_MASK (R83). -/
  | spiGateMask (idx : BitVec 4) (v : Word)
  /-- SPI_GATE_PASS (R84). -/
  | spiGatePass (idx : BitVec 4) (v : Word)
  /-- SPI_ASSERT_RESET (R85). -/
  | spiAssertReset (idx : BitVec 4) (v : Word)
  /-- SPI_DEASSERT_RESET (R86). -/
  | spiDeassertReset (idx : BitVec 4) (v : Word)
  /-- SPI_GATE_GET (R87). -/
  | spiGateGet (idx : BitVec 4) (v : Word)
  /-- SPI_RESET_GET (R88). -/
  | spiResetGet (idx : BitVec 4) (v : Word)
  /-- SPICLK_SOURCE_GET (R92). -/
  | spiclkSourceGet (v : Word)
  /-- SPICLK_SOURCE_SET (R93). -/
  | spiclkSourceSet (v : Word) (src : SpiClockSource)
  /-- SPICLK_N_GET (R94). -/
  | spiclkNGet (v : Word)
  /-- SPICLK_N_SET (R95). -/
  | spiclkNSet (v : Word) (n : FactorN)
  /-- SPICLK_M_GET (R96). -/
  | spiclkMGet (v : Word)
  /-- SPICLK_M_SET (R97). -/
  | spiclkMSet (v : Word) (m : Nat)
  /-- UART_BRINGUP (R102). -/
  | uartBringup (idx : BitVec 4)
  /-- UART_POWERDOWN (R104). -/
  | uartPowerdown (idx : BitVec 4)
  /-- SPI_BRINGUP (R103). -/
  | spiBringup (idx : BitVec 4)
  /-- SPI_POWERDOWN (R105). -/
  | spiPowerdown (idx : BitVec 4)
  /-- SPI_CONFIGURE (R111). -/
  | spiConfigure (idx : BitVec 4) (src : SpiClockSource) (m : Nat) (n : FactorN)
  deriving DecidableEq, Repr

/-- The name of a row of the opcode table (R57). -/
inductive Mnemonic where
  | rdUartBgr
  | wrUartBgr
  | rdSpiClk0
  | wrSpiClk0
  | rdSpiClk1
  | wrSpiClk1
  | rdSpiBgr
  | wrSpiBgr
  | uartGateMask
  | uartGatePass
  | uartAssertReset
  | uartDeassertReset
  | uartGateGet
  | uartResetGet
  | spiGateMask
  | spiGatePass
  | spiAssertReset
  | spiDeassertReset
  | spiGateGet
  | spiResetGet
  | spiclkSourceGet
  | spiclkSourceSet
  | spiclkNGet
  | spiclkNSet
  | spiclkMGet
  | spiclkMSet
  | uartBringup
  | uartPowerdown
  | spiBringup
  | spiPowerdown
  | spiConfigure
  deriving DecidableEq, Repr

/-- The operand values a caller supplies beside a descriptor (R62). An operation reads those its row takes. The
enumeration operands `src` and `n` arrive as codes, so that an operand which is none of the variants can be written
and is refused (REF_ENUM, R121; log 7). -/
structure Operands where
  v : Word
  src : Nat
  m : Nat
  n : Nat
  deriving DecidableEq, Repr

/-- No operand given: every operand word zero. -/
def Operands.zero : Operands := { v := 0, src := 0, m := 0, n := 0 }

/-- What a caller submits: an operation named by its descriptor (R49), or a bus access by a route outside the
descriptor decoder (R119), at an absolute bus address and with a width in bytes. -/
inductive Request where
  | op (desc : Word) (operands : Operands)
  | rawRead (addr width : Nat)
  | rawWrite (addr width : Nat) (v : Word)
  deriving DecidableEq, Repr

/-- Why a request has no meaning (R121). -/
inductive Rejection where
  /-- REF_DESCRIPTOR: no row of R57 matches. -/
  | descriptor
  /-- REF_INDEX: a sequencer or configurator index out of range for its kind. -/
  | index
  /-- REF_ENUM: a SpiClockSource or FactorN operand that is none of its variants. -/
  | enum
  deriving DecidableEq, Repr

end Sys2Proof
end

