-- ==== Sys2Proof/WellFormed.lean ====
section
/-! DEFINITION. Which operations are admitted: the instance index of a sequencer or configurator operation is below
the number of instances of its kind (30_encoding.md R55, R56, R63; 43_sequencer.md R101). The codec admits every index
0..15 (R52), and a divider m above 15 is admitted and faults when it runs (R97, R111). -/

namespace Sys2Proof

/-- The operation's index names an instance that exists (R63). -/
def Instr.wf (nUart : Nat) : Instr → Bool
  | .rdUartBgr => true
  | .wrUartBgr _ => true
  | .rdSpiClk0 => true
  | .wrSpiClk0 _ => true
  | .rdSpiClk1 => true
  | .wrSpiClk1 _ => true
  | .rdSpiBgr => true
  | .wrSpiBgr _ => true
  | .uartGateMask _ _ => true
  | .uartGatePass _ _ => true
  | .uartAssertReset _ _ => true
  | .uartDeassertReset _ _ => true
  | .uartGateGet _ _ => true
  | .uartResetGet _ _ => true
  | .spiGateMask _ _ => true
  | .spiGatePass _ _ => true
  | .spiAssertReset _ _ => true
  | .spiDeassertReset _ _ => true
  | .spiGateGet _ _ => true
  | .spiResetGet _ _ => true
  | .spiclkSourceGet _ => true
  | .spiclkSourceSet _ _ => true
  | .spiclkNGet _ => true
  | .spiclkNSet _ _ => true
  | .spiclkMGet _ => true
  | .spiclkMSet _ _ => true
  | .uartBringup idx => decide (idx.toNat < nUart)
  | .uartPowerdown idx => decide (idx.toNat < nUart)
  | .spiBringup idx => decide (idx.toNat < nSpi)
  | .spiPowerdown idx => decide (idx.toNat < nSpi)
  | .spiConfigure idx _ _ _ => decide (idx.toNat < nSpi)

end Sys2Proof
end

