-- ==== Sys2Proof/Decode.lean ====
section
/-! DEFINITION. From a descriptor and its operands to an operation, or a rejection by name (30_encoding.md R57 to R63),
and back (the encoder). The descriptor formats R50 to R56 are also written field by field, as a second reading of the
same encodings. No mode changes decoding (R64). -/

namespace Sys2Proof

/-- The code of a clock source (R58). -/
def encodeSrc : SpiClockSource → BitVec 3
  | .hosc => 0
  | .pllPeri1x => 1
  | .pllPeri2x => 2
  | .pllAudio1Div2 => 3
  | .pllAudio1Div5 => 4

/-- The clock source of a code; codes 5, 6 and 7 are unassigned (R59). -/
def decodeSrc (c : BitVec 3) : Option SpiClockSource :=
  if c = 0 then some .hosc
  else if c = 1 then some .pllPeri1x
  else if c = 2 then some .pllPeri2x
  else if c = 3 then some .pllAudio1Div2
  else if c = 4 then some .pllAudio1Div5
  else none

/-- The code of a factor N: divide-by-2^k has code k (R60). -/
def encodeN : FactorN → BitVec 2
  | .n1 => 0
  | .n2 => 1
  | .n4 => 2
  | .n8 => 3

/-- The factor N of a code; total, since all four codes are assigned (R60). -/
def decodeN (c : BitVec 2) : FactorN :=
  if c = 0 then .n1
  else if c = 1 then .n2
  else if c = 2 then .n4
  else .n8

/-- The match value of a row (R57). -/
def Mnemonic.pattern : Mnemonic → Word
  | .rdUartBgr => 0x0000090C
  | .wrUartBgr => 0x0001090C
  | .rdSpiClk0 => 0x00000940
  | .wrSpiClk0 => 0x00010940
  | .rdSpiClk1 => 0x00000944
  | .wrSpiClk1 => 0x00010944
  | .rdSpiBgr => 0x0000096C
  | .wrSpiBgr => 0x0001096C
  | .uartGateMask => 0x10000000
  | .uartGatePass => 0x10000100
  | .uartAssertReset => 0x10000200
  | .uartDeassertReset => 0x10000300
  | .uartGateGet => 0x10000400
  | .uartResetGet => 0x10000500
  | .spiGateMask => 0x11000000
  | .spiGatePass => 0x11000100
  | .spiAssertReset => 0x11000200
  | .spiDeassertReset => 0x11000300
  | .spiGateGet => 0x11000400
  | .spiResetGet => 0x11000500
  | .spiclkSourceGet => 0x20000000
  | .spiclkSourceSet => 0x20000100
  | .spiclkNGet => 0x20000200
  | .spiclkNSet => 0x20000300
  | .spiclkMGet => 0x20000400
  | .spiclkMSet => 0x20000500
  | .uartBringup => 0x30000000
  | .uartPowerdown => 0x30000100
  | .spiBringup => 0x31000000
  | .spiPowerdown => 0x31000100
  | .spiConfigure => 0x41000000

/-- The mask of a row (R57): the GCODEC, SEQ and CFG rows leave I in bits [3:0] open. -/
def Mnemonic.mask : Mnemonic → Word
  | .rdUartBgr => 0xFFFFFFFF
  | .wrUartBgr => 0xFFFFFFFF
  | .rdSpiClk0 => 0xFFFFFFFF
  | .wrSpiClk0 => 0xFFFFFFFF
  | .rdSpiClk1 => 0xFFFFFFFF
  | .wrSpiClk1 => 0xFFFFFFFF
  | .rdSpiBgr => 0xFFFFFFFF
  | .wrSpiBgr => 0xFFFFFFFF
  | .uartGateMask => 0xFFFFFFF0
  | .uartGatePass => 0xFFFFFFF0
  | .uartAssertReset => 0xFFFFFFF0
  | .uartDeassertReset => 0xFFFFFFF0
  | .uartGateGet => 0xFFFFFFF0
  | .uartResetGet => 0xFFFFFFF0
  | .spiGateMask => 0xFFFFFFF0
  | .spiGatePass => 0xFFFFFFF0
  | .spiAssertReset => 0xFFFFFFF0
  | .spiDeassertReset => 0xFFFFFFF0
  | .spiGateGet => 0xFFFFFFF0
  | .spiResetGet => 0xFFFFFFF0
  | .spiclkSourceGet => 0xFFFFFFFF
  | .spiclkSourceSet => 0xFFFFFFFF
  | .spiclkNGet => 0xFFFFFFFF
  | .spiclkNSet => 0xFFFFFFFF
  | .spiclkMGet => 0xFFFFFFFF
  | .spiclkMSet => 0xFFFFFFFF
  | .uartBringup => 0xFFFFFFF0
  | .uartPowerdown => 0xFFFFFFF0
  | .spiBringup => 0xFFFFFFF0
  | .spiPowerdown => 0xFFFFFFF0
  | .spiConfigure => 0xFFFFFFF0

/-- The row's name in spec/opcode_table.json. -/
def Mnemonic.text : Mnemonic → String
  | .rdUartBgr => "RD_UART_BGR"
  | .wrUartBgr => "WR_UART_BGR"
  | .rdSpiClk0 => "RD_SPI_CLK0"
  | .wrSpiClk0 => "WR_SPI_CLK0"
  | .rdSpiClk1 => "RD_SPI_CLK1"
  | .wrSpiClk1 => "WR_SPI_CLK1"
  | .rdSpiBgr => "RD_SPI_BGR"
  | .wrSpiBgr => "WR_SPI_BGR"
  | .uartGateMask => "UART_GATE_MASK"
  | .uartGatePass => "UART_GATE_PASS"
  | .uartAssertReset => "UART_ASSERT_RESET"
  | .uartDeassertReset => "UART_DEASSERT_RESET"
  | .uartGateGet => "UART_GATE_GET"
  | .uartResetGet => "UART_RESET_GET"
  | .spiGateMask => "SPI_GATE_MASK"
  | .spiGatePass => "SPI_GATE_PASS"
  | .spiAssertReset => "SPI_ASSERT_RESET"
  | .spiDeassertReset => "SPI_DEASSERT_RESET"
  | .spiGateGet => "SPI_GATE_GET"
  | .spiResetGet => "SPI_RESET_GET"
  | .spiclkSourceGet => "SPICLK_SOURCE_GET"
  | .spiclkSourceSet => "SPICLK_SOURCE_SET"
  | .spiclkNGet => "SPICLK_N_GET"
  | .spiclkNSet => "SPICLK_N_SET"
  | .spiclkMGet => "SPICLK_M_GET"
  | .spiclkMSet => "SPICLK_M_SET"
  | .uartBringup => "UART_BRINGUP"
  | .uartPowerdown => "UART_POWERDOWN"
  | .spiBringup => "SPI_BRINGUP"
  | .spiPowerdown => "SPI_POWERDOWN"
  | .spiConfigure => "SPI_CONFIGURE"

/-- The 31 rows of R57, in its order. -/
def Mnemonic.all : List Mnemonic :=
  [.rdUartBgr, .wrUartBgr, .rdSpiClk0, .wrSpiClk0, .rdSpiClk1, .wrSpiClk1, .rdSpiBgr, .wrSpiBgr,
   .uartGateMask, .uartGatePass, .uartAssertReset, .uartDeassertReset, .uartGateGet, .uartResetGet, .spiGateMask, .spiGatePass,
   .spiAssertReset, .spiDeassertReset, .spiGateGet, .spiResetGet, .spiclkSourceGet, .spiclkSourceSet, .spiclkNGet, .spiclkNSet,
   .spiclkMGet, .spiclkMSet, .uartBringup, .uartPowerdown, .spiBringup, .spiPowerdown, .spiConfigure]

/-- A descriptor matches a row when `d & mask = match` (R63). -/
def Mnemonic.matchesWord (k : Mnemonic) (d : Word) : Bool := d &&& k.mask == k.pattern

/-- The row a descriptor matches (R63). -/
def decodeRow (d : Word) : Option Mnemonic := Mnemonic.all.find? fun k => k.matchesWord d

/-- The field I of a descriptor, bits [3:0] (R52, R55, R56). -/
def indexField (d : Word) : BitVec 4 := d.extractLsb' 0 4

/-- A SpiClockSource operand that is none of the variants is refused with REF_ENUM (R63, R121). -/
def withSource (code : Nat) (k : SpiClockSource → Except Rejection Instr) : Except Rejection Instr :=
  match (if code < 8 then decodeSrc (BitVec.ofNat 3 code) else none) with
  | some s => k s
  | none => .error .enum

/-- A FactorN operand that is none of the variants is refused with REF_ENUM (R63, R121). -/
def withFactorN (code : Nat) (k : FactorN → Except Rejection Instr) : Except Rejection Instr :=
  if code < 4 then k (decodeN (BitVec.ofNat 2 code)) else .error .enum

/-- The row's index check (R63): sequencer and configurator rows only. -/
def Mnemonic.indexOk (nUart : Nat) (k : Mnemonic) (idx : BitVec 4) : Bool :=
  match k with
  | .uartBringup | .uartPowerdown => decide (idx.toNat < nUart)
  | .spiBringup | .spiPowerdown | .spiConfigure => decide (idx.toNat < nSpi)
  | _ => true

/-- The operation of a row, with its index and operands (R62). -/
def Mnemonic.build (k : Mnemonic) (idx : BitVec 4) (o : Operands) : Except Rejection Instr :=
  match k with
  | .rdUartBgr => .ok .rdUartBgr
  | .wrUartBgr => .ok (.wrUartBgr o.v)
  | .rdSpiClk0 => .ok .rdSpiClk0
  | .wrSpiClk0 => .ok (.wrSpiClk0 o.v)
  | .rdSpiClk1 => .ok .rdSpiClk1
  | .wrSpiClk1 => .ok (.wrSpiClk1 o.v)
  | .rdSpiBgr => .ok .rdSpiBgr
  | .wrSpiBgr => .ok (.wrSpiBgr o.v)
  | .uartGateMask => .ok (.uartGateMask idx o.v)
  | .uartGatePass => .ok (.uartGatePass idx o.v)
  | .uartAssertReset => .ok (.uartAssertReset idx o.v)
  | .uartDeassertReset => .ok (.uartDeassertReset idx o.v)
  | .uartGateGet => .ok (.uartGateGet idx o.v)
  | .uartResetGet => .ok (.uartResetGet idx o.v)
  | .spiGateMask => .ok (.spiGateMask idx o.v)
  | .spiGatePass => .ok (.spiGatePass idx o.v)
  | .spiAssertReset => .ok (.spiAssertReset idx o.v)
  | .spiDeassertReset => .ok (.spiDeassertReset idx o.v)
  | .spiGateGet => .ok (.spiGateGet idx o.v)
  | .spiResetGet => .ok (.spiResetGet idx o.v)
  | .spiclkSourceGet => .ok (.spiclkSourceGet o.v)
  | .spiclkSourceSet => withSource o.src fun s => .ok (.spiclkSourceSet o.v s)
  | .spiclkNGet => .ok (.spiclkNGet o.v)
  | .spiclkNSet => withFactorN o.n fun n => .ok (.spiclkNSet o.v n)
  | .spiclkMGet => .ok (.spiclkMGet o.v)
  | .spiclkMSet => .ok (.spiclkMSet o.v o.m)
  | .uartBringup => .ok (.uartBringup idx)
  | .uartPowerdown => .ok (.uartPowerdown idx)
  | .spiBringup => .ok (.spiBringup idx)
  | .spiPowerdown => .ok (.spiPowerdown idx)
  | .spiConfigure => withSource o.src fun s => withFactorN o.n fun n => .ok (.spiConfigure idx s o.m n)

/-- The decoder, total on every descriptor (R63): an operation, REF_DESCRIPTOR when no row matches, REF_INDEX when the
index check fails, REF_ENUM for an operand outside its enumeration. Where an index and an operand are both bad the
index is reported (log 7). -/
def decode (nUart : Nat) (d : Word) (o : Operands) : Except Rejection Instr :=
  match decodeRow d with
  | none => .error .descriptor
  | some k => if k.indexOk nUart (indexField d) then k.build (indexField d) o else .error .index

/-- The row of an operation. -/
def Instr.mnemonic : Instr → Mnemonic
  | .rdUartBgr => .rdUartBgr
  | .wrUartBgr _ => .wrUartBgr
  | .rdSpiClk0 => .rdSpiClk0
  | .wrSpiClk0 _ => .wrSpiClk0
  | .rdSpiClk1 => .rdSpiClk1
  | .wrSpiClk1 _ => .wrSpiClk1
  | .rdSpiBgr => .rdSpiBgr
  | .wrSpiBgr _ => .wrSpiBgr
  | .uartGateMask _ _ => .uartGateMask
  | .uartGatePass _ _ => .uartGatePass
  | .uartAssertReset _ _ => .uartAssertReset
  | .uartDeassertReset _ _ => .uartDeassertReset
  | .uartGateGet _ _ => .uartGateGet
  | .uartResetGet _ _ => .uartResetGet
  | .spiGateMask _ _ => .spiGateMask
  | .spiGatePass _ _ => .spiGatePass
  | .spiAssertReset _ _ => .spiAssertReset
  | .spiDeassertReset _ _ => .spiDeassertReset
  | .spiGateGet _ _ => .spiGateGet
  | .spiResetGet _ _ => .spiResetGet
  | .spiclkSourceGet _ => .spiclkSourceGet
  | .spiclkSourceSet _ _ => .spiclkSourceSet
  | .spiclkNGet _ => .spiclkNGet
  | .spiclkNSet _ _ => .spiclkNSet
  | .spiclkMGet _ => .spiclkMGet
  | .spiclkMSet _ _ => .spiclkMSet
  | .uartBringup _ => .uartBringup
  | .uartPowerdown _ => .uartPowerdown
  | .spiBringup _ => .spiBringup
  | .spiPowerdown _ => .spiPowerdown
  | .spiConfigure _ _ _ _ => .spiConfigure

/-- The field I of an operation's descriptor; a row without the field has zero there, which its match value fixes. -/
def Instr.index : Instr → BitVec 4
  | .rdUartBgr => 0
  | .wrUartBgr _ => 0
  | .rdSpiClk0 => 0
  | .wrSpiClk0 _ => 0
  | .rdSpiClk1 => 0
  | .wrSpiClk1 _ => 0
  | .rdSpiBgr => 0
  | .wrSpiBgr _ => 0
  | .uartGateMask idx _ => idx
  | .uartGatePass idx _ => idx
  | .uartAssertReset idx _ => idx
  | .uartDeassertReset idx _ => idx
  | .uartGateGet idx _ => idx
  | .uartResetGet idx _ => idx
  | .spiGateMask idx _ => idx
  | .spiGatePass idx _ => idx
  | .spiAssertReset idx _ => idx
  | .spiDeassertReset idx _ => idx
  | .spiGateGet idx _ => idx
  | .spiResetGet idx _ => idx
  | .spiclkSourceGet _ => 0
  | .spiclkSourceSet _ _ => 0
  | .spiclkNGet _ => 0
  | .spiclkNSet _ _ => 0
  | .spiclkMGet _ => 0
  | .spiclkMSet _ _ => 0
  | .uartBringup idx => idx
  | .uartPowerdown idx => idx
  | .spiBringup idx => idx
  | .spiPowerdown idx => idx
  | .spiConfigure idx _ _ _ => idx

/-- The descriptor of an operation (R57): its row's match value with I in bits [3:0]. -/
def encodeDesc (i : Instr) : Word := i.mnemonic.pattern ||| i.index.zeroExtend 32

/-- The operands that go with an operation's descriptor (R62). -/
def encodeOperands : Instr → Operands
  | .rdUartBgr => .zero
  | .wrUartBgr v => { Operands.zero with v := v }
  | .rdSpiClk0 => .zero
  | .wrSpiClk0 v => { Operands.zero with v := v }
  | .rdSpiClk1 => .zero
  | .wrSpiClk1 v => { Operands.zero with v := v }
  | .rdSpiBgr => .zero
  | .wrSpiBgr v => { Operands.zero with v := v }
  | .uartGateMask _ v => { Operands.zero with v := v }
  | .uartGatePass _ v => { Operands.zero with v := v }
  | .uartAssertReset _ v => { Operands.zero with v := v }
  | .uartDeassertReset _ v => { Operands.zero with v := v }
  | .uartGateGet _ v => { Operands.zero with v := v }
  | .uartResetGet _ v => { Operands.zero with v := v }
  | .spiGateMask _ v => { Operands.zero with v := v }
  | .spiGatePass _ v => { Operands.zero with v := v }
  | .spiAssertReset _ v => { Operands.zero with v := v }
  | .spiDeassertReset _ v => { Operands.zero with v := v }
  | .spiGateGet _ v => { Operands.zero with v := v }
  | .spiResetGet _ v => { Operands.zero with v := v }
  | .spiclkSourceGet v => { Operands.zero with v := v }
  | .spiclkSourceSet v src => { Operands.zero with v := v, src := (encodeSrc src).toNat }
  | .spiclkNGet v => { Operands.zero with v := v }
  | .spiclkNSet v n => { Operands.zero with v := v, n := (encodeN n).toNat }
  | .spiclkMGet v => { Operands.zero with v := v }
  | .spiclkMSet v m => { Operands.zero with v := v, m := m }
  | .uartBringup _ => .zero
  | .uartPowerdown _ => .zero
  | .spiBringup _ => .zero
  | .spiPowerdown _ => .zero
  | .spiConfigure _ src m n => { Operands.zero with src := (encodeSrc src).toNat, m := m, n := (encodeN n).toNat }

/-- The request that names an operation. -/
def encode (i : Instr) : Request := .op (encodeDesc i) (encodeOperands i)

/-- The BUS format (R51), read by its fields W and OFF. -/
def busRow (d : Word) : Option Mnemonic :=
  if d.extractLsb' 17 11 = 0 ∧ d.extractLsb' 12 4 = 0 then
    let w := d.getLsbD 16
    let off := d.extractLsb' 0 12
    if off = 0x90C then some (if w then .wrUartBgr else .rdUartBgr)
    else if off = 0x940 then some (if w then .wrSpiClk0 else .rdSpiClk0)
    else if off = 0x944 then some (if w then .wrSpiClk1 else .rdSpiClk1)
    else if off = 0x96C then some (if w then .wrSpiBgr else .rdSpiBgr)
    else none
  else none

/-- The GCODEC format (R52), read by its fields KIND and FUNC. -/
def gcodecRow (d : Word) : Option Mnemonic :=
  if d.extractLsb' 12 12 = 0 ∧ d.extractLsb' 4 4 = 0 then
    match (d.extractLsb' 24 4).toNat, (d.extractLsb' 8 4).toNat with
    | 0, 0 => some .uartGateMask
    | 0, 1 => some .uartGatePass
    | 0, 2 => some .uartAssertReset
    | 0, 3 => some .uartDeassertReset
    | 0, 4 => some .uartGateGet
    | 0, 5 => some .uartResetGet
    | 1, 0 => some .spiGateMask
    | 1, 1 => some .spiGatePass
    | 1, 2 => some .spiAssertReset
    | 1, 3 => some .spiDeassertReset
    | 1, 4 => some .spiGateGet
    | 1, 5 => some .spiResetGet
    | _, _ => none
  else none

/-- The SCODEC format (R54), read by its field FUNC. -/
def scodecRow (d : Word) : Option Mnemonic :=
  if d.extractLsb' 12 16 = 0 ∧ d.extractLsb' 0 8 = 0 then
    match (d.extractLsb' 8 4).toNat with
    | 0 => some .spiclkSourceGet
    | 1 => some .spiclkSourceSet
    | 2 => some .spiclkNGet
    | 3 => some .spiclkNSet
    | 4 => some .spiclkMGet
    | 5 => some .spiclkMSet
    | _ => none
  else none

/-- The SEQ format (R55), read by its fields KIND and FUNC. -/
def seqRow (d : Word) : Option Mnemonic :=
  if d.extractLsb' 12 12 = 0 ∧ d.extractLsb' 4 4 = 0 then
    match (d.extractLsb' 24 4).toNat, (d.extractLsb' 8 4).toNat with
    | 0, 0 => some .uartBringup
    | 0, 1 => some .uartPowerdown
    | 1, 0 => some .spiBringup
    | 1, 1 => some .spiPowerdown
    | _, _ => none
  else none

/-- The CFG format (R56): KIND 1 only. -/
def cfgRow (d : Word) : Option Mnemonic :=
  if d.extractLsb' 4 20 = 0 ∧ d.extractLsb' 24 4 = 1 then some .spiConfigure else none

/-- The row of a descriptor read by its format's fields (R50 to R56, R64): the class from bits [31:28] alone, then the
class's own fields, with every must-be-zero field checked. -/
def rowByFields (d : Word) : Option Mnemonic :=
  match (d.extractLsb' 28 4).toNat with
  | 0 => busRow d
  | 1 => gcodecRow d
  | 2 => scodecRow d
  | 3 => seqRow d
  | 4 => cfgRow d
  | _ => none

/-- For the host: the operation the decoder reads from a descriptor with every operand word zero, with the parameters
of `State.reset`. Every descriptor is exactly 32 bits long (R49). -/
def decodeTableWord (nbits w : Nat) : Option Instr :=
  if nbits = 32 ∧ w < 2 ^ 32 then
    match decode Config.defaultParams.nUart (BitVec.ofNat 32 w) .zero with
    | .ok i => some i
    | .error _ => none
  else none

end Sys2Proof
end

