-- ==== Sys2Proof/Machine/State.lean ====
section
/-! DEFINITION. The state of the machine as plain data (10_state.md R13, R25, R27; 20_memory.md R48), the reasons a
step can stop, and the state after reset (70_reset_and_hazards.md R133, R134). -/

namespace Sys2Proof.Machine

open Sys2Proof

/-- The four registers (R13). -/
inductive Reg where
  | uartBgr
  | spiClk0
  | spiClk1
  | spiBgr
  deriving DecidableEq, Repr

/-- The direction of a bus access (R48). -/
inductive Dir where
  | read
  | write
  deriving DecidableEq, Repr

/-- One bus access of the event history (R48): the agent, R or W, the byte offset and the value moved. -/
structure Event where
  agent : Nat
  dir : Dir
  off : Nat
  value : Word
  deriving DecidableEq, Repr

/-- The fault codes (R115). -/
inductive FaultCode where
  /-- 1 F_DECODE_SRC (R116). -/
  | decodeSrc
  /-- 2 F_RACE (R117). -/
  | race
  /-- 3 F_PRECOND_M (R118). -/
  | precondM
  /-- 4 F_UNMAPPED (R119). -/
  | unmapped
  /-- 5 F_ACCESS (R120). -/
  | access
  deriving DecidableEq, Repr

/-- The info of a fault record (R115). An offset of a raw access is an integer, since the address may lie below
CCU_BASE; a width is in bytes (log 13). -/
inductive FaultInfo where
  /-- F_DECODE_SRC: the 3-bit code. -/
  | source (code : BitVec 3)
  /-- F_RACE: the agent intruded on (the record's own agent is the accessing one) and the offset. -/
  | race (other : Nat) (off : Nat)
  /-- F_PRECOND_M: the value m. -/
  | divider (m : Nat)
  /-- F_UNMAPPED: the offset. -/
  | offset (off : Int)
  /-- F_ACCESS: the offset and the width. -/
  | access (off : Int) (width : Nat)
  deriving DecidableEq, Repr

/-- A fault record (R115). -/
structure FaultRecord where
  code : FaultCode
  agent : Nat
  info : FaultInfo
  deriving DecidableEq, Repr

/-- What an operation gives back (R62, column "result out"). -/
inductive Result where
  | unit
  | word (v : Word)
  | bit (b : Bool)
  | source (s : SpiClockSource)
  | factorN (n : FactorN)
  | factorM (m : BitVec 4)
  deriving DecidableEq, Repr

/-- An agent (R27): the operation in flight with its phase counter, the last value read and the flag `done`. `stopped`
says that a fault stopped it (R115). `rest` holds the operations of its program that follow, with the
operands the program gave them (95_test_vectors.md section 3; log 4, 26). -/
structure Agent where
  id : Nat
  op : Request
  rest : List Request
  ph : Nat
  tmp : Word
  done : Bool
  stopped : Bool
  deriving DecidableEq, Repr

/-- An operation that ran to its end, with its result (R62; log 8). -/
structure Completion where
  agent : Nat
  op : Request
  result : Result
  deriving DecidableEq, Repr

/-- Why the machine stops with a fault of the model's own. A fault of the spec (R115) is no such stop: it is a record
in `faults` and the machine goes on. Both are raised by `exec` on an agent record that no run from reset reaches, and
both are safe (log 11). -/
inductive Fault where
  /-- Raised by every meaning when the agent whose turn it is has no operation in flight (absent, done or stopped):
  it takes no step (R27, R115). Safe. -/
  | noOperationInFlight
  /-- Raised by every meaning when the agent's phase counter names a phase the operation does not have (R102 to R105,
  R111). Safe. -/
  | noSuchPhase
  deriving DecidableEq, Repr

/-- Why a step has no meaning. -/
inductive Refusal where
  /-- An instruction without a meaning yet; no arm answers it. Safe. -/
  | notModelled (mnemonic : String)
  /-- REF_DESCRIPTOR, REF_INDEX or REF_ENUM (R63, R121), raised by a meaning applied to an index out of range (log 18)
  and by a step whose agent has a refused operation in flight, which no submission creates (log 10). Safe. -/
  | rejected (why : Rejection)
  deriving DecidableEq, Repr

/-- The machine's state. The registers, the fault set, the agents and the history are the spec's (R13, R25, R27, R48);
`params` are its parameters (R9); the rest is the model's own (log 2, 5, 8). -/
structure State where
  /-- The parameters (R9), fixed for the machine. -/
  params : Params
  /-- `REG.uart_bgr` (R14). -/
  uartBgr : Word
  /-- `REG.spi_clk[0]` (R16). -/
  spiClk0 : Word
  /-- `REG.spi_clk[1]` (R16). -/
  spiClk1 : Word
  /-- `REG.spi_bgr` (R15). -/
  spiBgr : Word
  /-- FAULTS (R25), in the order of raising, no record twice. -/
  faults : List FaultRecord
  /-- The agents (R27). -/
  agents : List Agent
  /-- The event history (R48), oldest first. -/
  history : List Event
  /-- Operations that ran to their end, oldest first (log 8). -/
  completed : List Completion
  /-- The agents named to move next (log 5). -/
  sched : List Nat
  /-- The agent whose phase step this is (log 5). -/
  turn : Nat
  /-- How many draws have been taken (log 2). -/
  drawn : Nat
  /-- How many free scheduling choices have been taken (log 5). -/
  picked : Nat
  deriving DecidableEq, Repr

/-- The reset values of the four registers (R133): parameters. -/
structure ResetValues where
  uartBgr : Word
  spiClk0 : Word
  spiClk1 : Word
  spiBgr : Word
  deriving DecidableEq, Repr

/-- R133's defaults: each a draw taken once at reset. -/
def ResetValues.drawn : ResetValues :=
  { uartBgr := Config.resetUartBgr, spiClk0 := Config.resetSpiClk0, spiClk1 := Config.resetSpiClk1,
    spiBgr := Config.resetSpiBgr }

/-- The state after reset for given parameters (R133, R134): the registers at their reset values, no fault, no agent,
an empty history. -/
def State.resetWith (p : Params) (r : ResetValues) : State :=
  { params := p, uartBgr := r.uartBgr, spiClk0 := r.spiClk0, spiClk1 := r.spiClk1, spiBgr := r.spiBgr,
    faults := [], agents := [], history := [], completed := [], sched := [], turn := 0, drawn := 0, picked := 0 }

/-- The machine right after reset, with the default parameters and register reset values (R9, R133, R134). -/
def State.reset : State := State.resetWith Config.defaultParams ResetValues.drawn

end Sys2Proof.Machine
end

