-- ==== Sys2Proof/Machine/Operands.lean ====
section
/-! DEFINITION. The field helpers of 00_scope.md R12 and the pure codec functions over a 32-bit value: the gating and
reset transforms (41_gating_codec.md R76) and the SPI clock fields (42_spiclk_codec.md). None of them reads a register
(R29, R100). The sequencer and the configurator write what these functions compute (R66). -/

namespace Sys2Proof.Machine

open Sys2Proof

/-- `mask(o, w)` (R12). -/
def fieldMask (o w : Nat) : Word := ((1#32 <<< w) - 1#32) <<< o

/-- `get(v, o, w)` (R12), as a field value of width `w`. -/
def getField (v : Word) (o w : Nat) : BitVec w := ((v >>> o) &&& ((1#32 <<< w) - 1#32)).truncate w

/-- `set(v, o, w, x)` (R12). Its precondition x < 2^w is the caller's. -/
def setField (v : Word) (o w : Nat) (x : Word) : Word :=
  (v &&& ~~~(fieldMask o w)) ||| ((x &&& ((1#32 <<< w) - 1#32)) <<< o)

/-- `setbit(v, k)` (R12). -/
def setBit (v : Word) (k : Nat) : Word := v ||| (1#32 <<< k)

/-- `clrbit(v, k)` (R12). -/
def clrBit (v : Word) (k : Nat) : Word := v &&& ~~~(1#32 <<< k)

/-- `gbit(I)` (R76). -/
def gbit (idx : BitVec 4) : Nat := idx.toNat

/-- `rbit(I)` (R76). -/
def rbit (idx : BitVec 4) : Nat := idx.toNat + 16

/-- GATE_MASK (R77, R83). -/
def gateMask (idx : BitVec 4) (v : Word) : Word := clrBit v (gbit idx)

/-- GATE_PASS (R78, R84). -/
def gatePass (idx : BitVec 4) (v : Word) : Word := setBit v (gbit idx)

/-- ASSERT_RESET (R79, R85): the reset bit is a deassert bit, so asserting clears it (R18). -/
def assertReset (idx : BitVec 4) (v : Word) : Word := clrBit v (rbit idx)

/-- DEASSERT_RESET (R80, R86). -/
def deassertReset (idx : BitVec 4) (v : Word) : Word := setBit v (rbit idx)

/-- GATE_GET (R81, R87). -/
def gateGet (idx : BitVec 4) (v : Word) : Bool := v.getLsbD (gbit idx)

/-- RESET_GET (R82, R88): true means out of reset. -/
def resetGet (idx : BitVec 4) (v : Word) : Bool := v.getLsbD (rbit idx)

/-- Gate masked and reset asserted: the value bring-up writes first and power-down writes (R102, R106). -/
def holdInReset (idx : BitVec 4) (v : Word) : Word := assertReset idx (gateMask idx v)

/-- Gate passed and reset deasserted: the value bring-up writes last (R102, R106). -/
def letRun (idx : BitVec 4) (v : Word) : Word := deassertReset idx (gatePass idx v)

/-- The field CLK_SRC_SEL, bits [26:24] (R16). -/
def sourceField (v : Word) : BitVec 3 := getField v 24 3

/-- SOURCE_GET: none for an unassigned code (R92, R59). -/
def sourceGet (v : Word) : Option SpiClockSource := decodeSrc (sourceField v)

/-- SOURCE_SET (R93). The old field is not decoded. -/
def sourceSet (v : Word) (s : SpiClockSource) : Word := setField v 24 3 ((encodeSrc s).zeroExtend 32)

/-- N_GET (R94). -/
def nGet (v : Word) : FactorN := decodeN (getField v 8 2)

/-- N_SET (R95). -/
def nSet (v : Word) (n : FactorN) : Word := setField v 8 2 ((encodeN n).zeroExtend 32)

/-- M_GET (R96). -/
def mGet (v : Word) : BitVec 4 := getField v 0 4

/-- M_SET (R97), for m in 0..15; the operations check m first. -/
def mSet (v : Word) (m : Nat) : Word := setField v 0 4 (BitVec.ofNat 32 m)

/-- The value a configure writes: the three setters over the value read (R111). -/
def configured (v : Word) (s : SpiClockSource) (m : Nat) (n : FactorN) : Word := sourceSet (mSet (nSet v n) m) s

/-- The register an operation accesses more than once, if it is a multi-access operation: its race window is on this
register (R44, R101, R111). -/
def windowTarget : Instr → Option Reg
  | .uartBringup _ | .uartPowerdown _ => some .uartBgr
  | .spiBringup _ | .spiPowerdown _ => some .spiBgr
  | .spiConfigure idx _ _ _ => some (if idx = 0 then .spiClk0 else .spiClk1)
  | _ => none

/-- How many phases an operation has (R102 to R105, R111); every other operation is one step (R27, R67). -/
def phases : Instr → Nat
  | .uartBringup _ | .spiBringup _ => 4
  | .uartPowerdown _ | .spiPowerdown _ | .spiConfigure _ _ _ _ => 2
  | _ => 1

end Sys2Proof.Machine
end

