-- ==== Sys2Proof/Machine/Ops.lean ====
section
/-! DEFINITION. The named operations the meanings share: registers and their bits (10_state.md, 20_memory.md R33),
memory access (R34 to R37), the event history (R48), the race rule (R44), raising a fault (60_exceptions.md R115,
R123), and the phase control of an agent (R27). -/

namespace Sys2Proof.Machine

open Sys2Proof

/-- The outcome of a step of this machine. -/
abbrev Outcome := Host.Outcome State Fault Refusal

/-- The byte offset of a register (R13, R33). -/
def Reg.off : Reg → Nat
  | .uartBgr => 0x90C
  | .spiClk0 => 0x940
  | .spiClk1 => 0x944
  | .spiBgr => 0x96C

/-- The four registers. -/
def Reg.all : List Reg := [.uartBgr, .spiClk0, .spiClk1, .spiBgr]

/-- The gating register of a kind (R53, R101). -/
def bgr : Kind → Reg
  | .uart => .uartBgr
  | .spi => .spiBgr

/-- The clock register of an SPI instance (R16): index 0 has `spi_clk[0]`, index 1 `spi_clk[1]`. An index from 2 up is no
SPI instance; it gives `spi_clk[1]` here, and no operation with such an index runs (DESIGN CHOICE, log 28). -/
def spiClk (idx : BitVec 4) : Reg := if idx = 0 then .spiClk0 else .spiClk1

/-- The defined bits of a gating register with `n` instances: bits I and I+16 for I < n (R14). -/
def pairMask (n : Nat) : Word := BitVec.ofNat 32 ((2 ^ n - 1) * 0x10001)

/-- The defined bits of a register (R14, R15, R16). -/
def Reg.definedMask (nUart : Nat) : Reg → Word
  | .uartBgr => pairMask nUart
  | .spiClk0 => 0x0700030F
  | .spiClk1 => 0x0700030F
  | .spiBgr => pairMask nSpi

/-- The stored contents `REG.r` (R11, R13). -/
def State.reg (s : State) : Reg → Word
  | .uartBgr => s.uartBgr
  | .spiClk0 => s.spiClk0
  | .spiClk1 => s.spiClk1
  | .spiBgr => s.spiBgr

/-- Replace a register's contents (R36). -/
def State.setReg (s : State) (r : Reg) (v : Word) : State :=
  match r with
  | .uartBgr => { s with uartBgr := v }
  | .spiClk0 => { s with spiClk0 := v }
  | .spiClk1 => { s with spiClk1 := v }
  | .spiBgr => { s with spiBgr := v }

/-- The register at a byte offset (R33). -/
def regAt (off : Int) : Option Reg := Reg.all.find? fun r => (r.off : Int) == off

/-- Address decode of an access of `width` bytes at a bus address (R33, R34, R37): the offset is taken from CCU_BASE
(R31). A wrong width or a misaligned offset is F_ACCESS (R37). R122 says that a misaligned access that is unmapped too is
F_ACCESS. That an aligned access of a wrong width that is not exactly one register (R34) is F_ACCESS as well is the
model's choice (DESIGN CHOICE, log 27). -/
def selectReg (p : Params) (addr width : Nat) : Except (FaultCode × FaultInfo) Reg :=
  let off : Int := (addr : Int) - (p.ccuBase : Int)
  if width ≠ 4 ∨ off % 4 ≠ 0 then .error (.access, .access off width)
  else match regAt off with
    | some r => .ok r
    | none => .error (.unmapped, .offset off)

/-- What a read returns of the stored word, given a fresh draw: the defined bits are storage and the undefined bits
follow UNDEF_BITS (R19, R20, R35); under EXTERNAL_MUTATION every bit is a draw (R19). -/
def readBack (p : Params) (r : Reg) (stored fresh : Word) : Word :=
  if p.externalMutation then fresh
  else match p.undefBits with
    | .storage => stored
    | .draw => (stored &&& r.definedMask p.nUart) ||| (fresh &&& ~~~(r.definedMask p.nUart))

/-- The number of a fault code (R115). -/
def FaultCode.number : FaultCode → Nat
  | .decodeSrc => 1
  | .race => 2
  | .precondM => 3
  | .unmapped => 4
  | .access => 5

/-- The agent has an operation in flight: neither finished nor stopped (R27, R115). -/
def Agent.running (a : Agent) : Bool := !a.done && !a.stopped

/-- The window an agent has open: on its multi-access operation's register, after its first access and until its last
access completes (R44). -/
def Agent.window (nUart : Nat) (a : Agent) : Option Reg :=
  if a.done || a.ph == 0 then none
  else match a.op with
    | .op d o =>
      match decode nUart d o with
      | .ok i => windowTarget i
      | .error _ => none
    | .rawRead _ _ => none
    | .rawWrite _ _ _ => none

/-- Add a record to a fault set; a record that is there already is not repeated (R25, 95_test_vectors.md P3). -/
def addFault (fs : List FaultRecord) (f : FaultRecord) : List FaultRecord := if f ∈ fs then fs else fs ++ [f]

/-- The F_RACE records of an access by the agent whose turn it is: one for every other agent with an open window on
the register, charged to the accessing agent (R44, R115, R117). -/
def State.raceRecords (s : State) (r : Reg) : List FaultRecord :=
  (s.agents.filter fun b => b.id != s.turn && b.window s.params.nUart == some r).map
    fun b => { code := .race, agent := s.turn, info := .race b.id r.off }

/-- FAULTS after an access to a register (R44): F_RACE stops nobody (R117). -/
def State.faultsAfter (s : State) (r : Reg) : List FaultRecord := (s.raceRecords r).foldl addFault s.faults

/-- The value a read of a register returns now (R35). -/
def State.readValue (s : State) (r : Reg) : Word := readBack s.params r (s.reg r) (Config.draw s.drawn)

/-- The state after a read of a register (R35, R44, R48): no register changes. -/
def State.afterRead (s : State) (r : Reg) : State :=
  { s with
    faults := s.faultsAfter r
    history := s.history ++ [{ agent := s.turn, dir := .read, off := r.off, value := s.readValue r }]
    drawn := s.drawn + 1 }

/-- The state after a write of a register (R36, R44, R48). -/
def State.afterWrite (s : State) (r : Reg) (v : Word) : State :=
  { s.setReg r v with
    faults := s.faultsAfter r
    history := s.history ++ [{ agent := s.turn, dir := .write, off := r.off, value := v }] }

/-- Change the record of the agent whose turn it is. -/
def State.updTurn (s : State) (f : Agent → Agent) : State :=
  { s with agents := s.agents.map fun a => if a.id = s.turn then f a else a }

/-- RAISE A FAULT that stops its agent (R115, R123): the record is added to FAULTS and the agent takes no further
step. Nothing is saved, no register changes and control goes nowhere. There is no return from a fault: no operation
clears a record or resumes a stopped agent (R124). -/
def State.raise (s : State) (code : FaultCode) (info : FaultInfo) : State :=
  { s.updTurn (fun a => { a with stopped := true }) with
    faults := addFault s.faults { code := code, agent := s.turn, info := info } }

/-- `MemRead(addr, width)` (R11): an access the block does not admit raises its fault before it touches anything (R34,
R37, R123); an admitted one goes on with the value. That an access which faults records no F_RACE as well, even where its
bytes lie in a register on which another agent's window is open, is the model's choice (DESIGN CHOICE, log 30). -/
def memRead (addr width : Nat) (s : State) (k : Word → State → Outcome) : Outcome :=
  match selectReg s.params addr width with
  | .ok r => k (s.readValue r) (s.afterRead r)
  | .error e => .next (s.raise e.1 e.2)

/-- `MemWrite(addr, width, v)` (R11): faults as a read does, with no F_RACE beside the fault (DESIGN CHOICE, log 30). -/
def memWrite (addr width : Nat) (v : Word) (s : State) (k : State → Outcome) : Outcome :=
  match selectReg s.params addr width with
  | .ok r => k (s.afterWrite r v)
  | .error e => .next (s.raise e.1 e.2)

/-- `Read32(off)` (R11). -/
def read32 (off : Nat) (s : State) (k : Word → State → Outcome) : Outcome := memRead (s.params.ccuBase + off) 4 s k

/-- `Write32(off, v)` (R11). -/
def write32 (off : Nat) (v : Word) (s : State) (k : State → Outcome) : Outcome :=
  memWrite (s.params.ccuBase + off) 4 v s k

/-- The record of the agent whose turn it is, when it has an operation in flight. -/
def State.current (s : State) : Option Agent := s.agents.find? fun a => a.id == s.turn && a.running

/-- `tmp <- v; ph <- k` (R27). -/
def State.advance (s : State) (v : Word) (k : Nat) : State := s.updTurn fun a => { a with tmp := v, ph := k }

/-- The operation is done and gives its result out (R27, R62; log 8). -/
def State.finish (s : State) (op : Request) (res : Result) : State :=
  { s.updTurn (fun a => { a with done := true }) with
    completed := s.completed ++ [{ agent := s.turn, op := op, result := res }] }

/-- Run a phase step of the operation in flight; an agent without one takes no step (R27, R115). -/
def inFlight (s : State) (k : Agent → Outcome) : Outcome :=
  match s.current with
  | some a => k a
  | none => .fault .noOperationInFlight

/-- An operation of a single step (R27, R67): it has phase 0 only. -/
def oneStep (s : State) (k : Agent → Outcome) : Outcome :=
  inFlight s fun a => if a.ph = 0 then k a else .fault .noSuchPhase

/-- A bus read operation (R67): one access, the value read is the result and the agent's `tmp`. -/
def busRead (off : Nat) (s : State) : Outcome :=
  oneStep s fun a => read32 off s fun v t => .next ((t.advance v a.ph).finish a.op (.word v))

/-- A bus write operation (R67): one access. -/
def busWrite (off : Nat) (v : Word) (s : State) : Outcome :=
  oneStep s fun a => write32 off v s fun t => .next (t.finish a.op .unit)

/-- A pure codec function (R27): one step, no register, no event. -/
def pureOp (res : Result) (s : State) : Outcome := oneStep s fun a => .next (s.finish a.op res)

/-- A refused operation never runs (R121, R122; log 18). -/
def checkIndex (ok : Bool) (k : Outcome) : Outcome := if ok then k else .refused (.rejected .index)

/-- The bring-up of R102 and R103 on the gating register at `off`. -/
def bringup (off : Nat) (idx : BitVec 4) (s : State) : Outcome :=
  inFlight s fun a =>
    match a.ph with
    | 0 => read32 off s fun v t => .next (t.advance v 1)
    | 1 => write32 off (holdInReset idx a.tmp) s fun t => .next (t.advance a.tmp 2)
    | 2 => read32 off s fun v t => .next (t.advance v 3)
    | 3 => write32 off (letRun idx a.tmp) s fun t => .next (t.finish a.op .unit)
    | _ => .fault .noSuchPhase

/-- The power-down of R104 and R105 on the gating register at `off`. -/
def powerdown (off : Nat) (idx : BitVec 4) (s : State) : Outcome :=
  inFlight s fun a =>
    match a.ph with
    | 0 => read32 off s fun v t => .next (t.advance v 1)
    | 1 => write32 off (holdInReset idx a.tmp) s fun t => .next (t.finish a.op .unit)
    | _ => .fault .noSuchPhase

/-- The configure of R111 on the clock register at `off`: the divider is checked before any access. -/
def configure (off : Nat) (src : SpiClockSource) (m : Nat) (n : FactorN) (s : State) : Outcome :=
  inFlight s fun a =>
    match a.ph with
    | 0 => if 15 < m then .next (s.raise .precondM (.divider m)) else read32 off s fun v t => .next (t.advance v 1)
    | 1 => write32 off (configured a.tmp src m n) s fun t => .next (t.finish a.op .unit)
    | _ => .fault .noSuchPhase

/-- A read by a route outside the descriptor decoder (R34, R37, R119; log 13). -/
def rawRead (addr width : Nat) (s : State) : Outcome :=
  oneStep s fun a => memRead addr width s fun v t => .next ((t.advance v a.ph).finish a.op (.word v))

/-- A write by a route outside the descriptor decoder (R34, R37, R119; log 13). -/
def rawWrite (addr width : Nat) (v : Word) (s : State) : Outcome :=
  oneStep s fun a => memWrite addr width v s fun t => .next (t.finish a.op .unit)

/-- The register whose four bytes hold the offset, and the byte's place in it (R24, R33, R38). -/
def regByte (off : Int) : Option (Reg × Nat) :=
  (Reg.all.find? fun r => decide ((r.off : Int) ≤ off ∧ off < r.off + 4)).map fun r => (r, (off - r.off).toNat)

/-- The byte view of R38: the stored byte at a bus address, little-endian; none where no register is (padding holds no
state, R24). -/
def State.byteAt (s : State) (addr : Nat) : Option Byte :=
  (regByte ((addr : Int) - (s.params.ccuBase : Int))).map fun x => (s.reg x.1).extractLsb' (8 * x.2) 8

/-- A byte offset of reserved padding (R24). -/
def isPadding (off : Nat) : Bool := decide (off < windowExtent) && (regByte off).isNone

end Sys2Proof.Machine
end

