-- ==== Sys2Proof/Machine/Bus.lean ====
section
/-! DEFINITION. The bus accesses of 40_bus_access.md (R67 to R75): one access each, by absolute byte offset. -/

namespace Sys2Proof.Machine

open Sys2Proof

/-- RD_UART_BGR (R68): `v <- Read32(0x90C)`. The read does not decode what it reads. -/
def execRdUartBgr (s : State) : Outcome := busRead 0x90C s

/-- WR_UART_BGR (R69): `Write32(0x90C, v)`. Any value is accepted. -/
def execWrUartBgr (v : Word) (s : State) : Outcome := busWrite 0x90C v s

/-- RD_SPI_CLK0 (R70): `v <- Read32(0x940)`. The read does not decode what it reads. -/
def execRdSpiClk0 (s : State) : Outcome := busRead 0x940 s

/-- WR_SPI_CLK0 (R71): `Write32(0x940, v)`. Any value is accepted. -/
def execWrSpiClk0 (v : Word) (s : State) : Outcome := busWrite 0x940 v s

/-- RD_SPI_CLK1 (R72): `v <- Read32(0x944)`. The read does not decode what it reads. -/
def execRdSpiClk1 (s : State) : Outcome := busRead 0x944 s

/-- WR_SPI_CLK1 (R73): `Write32(0x944, v)`. Any value is accepted. -/
def execWrSpiClk1 (v : Word) (s : State) : Outcome := busWrite 0x944 v s

/-- RD_SPI_BGR (R74): `v <- Read32(0x96C)`. The read does not decode what it reads. -/
def execRdSpiBgr (s : State) : Outcome := busRead 0x96C s

/-- WR_SPI_BGR (R75): `Write32(0x96C, v)`. Any value is accepted. -/
def execWrSpiBgr (v : Word) (s : State) : Outcome := busWrite 0x96C v s


end Sys2Proof.Machine
end

