-- ==== Sys2Proof/Machine/Configurator.lean ====
section
/-! DEFINITION. The clock source/divider configurator of 44_configurator.md (R111). -/

namespace Sys2Proof.Machine

open Sys2Proof

/-- SPI_CONFIGURE (R111): one phase step, on `spi_clk[I]` at 0x940 + 4*I. -/
def execSpiConfigure (idx : BitVec 4) (src : SpiClockSource) (m : Nat) (n : FactorN) (s : State) : Outcome :=
  checkIndex (decide (idx.toNat < nSpi)) (configure (0x940 + 4 * idx.toNat) src m n s)


end Sys2Proof.Machine
end

