-- ==== Sys2Proof/Machine/GatingCodec.lean ====
section
/-! DEFINITION. The bus-gating/reset codec of 41_gating_codec.md (R76 to R88): pure functions of a value already read, for every
index 0..15 (R52, D22). The UART and the SPI kind share one layout (R76). -/

namespace Sys2Proof.Machine

open Sys2Proof

/-- UART_GATE_MASK (R77). -/
def execUartGateMask (idx : BitVec 4) (v : Word) (s : State) : Outcome := pureOp (.word (gateMask idx v)) s

/-- UART_GATE_PASS (R78). -/
def execUartGatePass (idx : BitVec 4) (v : Word) (s : State) : Outcome := pureOp (.word (gatePass idx v)) s

/-- UART_ASSERT_RESET (R79). -/
def execUartAssertReset (idx : BitVec 4) (v : Word) (s : State) : Outcome := pureOp (.word (assertReset idx v)) s

/-- UART_DEASSERT_RESET (R80). -/
def execUartDeassertReset (idx : BitVec 4) (v : Word) (s : State) : Outcome := pureOp (.word (deassertReset idx v)) s

/-- UART_GATE_GET (R81). -/
def execUartGateGet (idx : BitVec 4) (v : Word) (s : State) : Outcome := pureOp (.bit (gateGet idx v)) s

/-- UART_RESET_GET (R82). -/
def execUartResetGet (idx : BitVec 4) (v : Word) (s : State) : Outcome := pureOp (.bit (resetGet idx v)) s

/-- SPI_GATE_MASK (R83). -/
def execSpiGateMask (idx : BitVec 4) (v : Word) (s : State) : Outcome := pureOp (.word (gateMask idx v)) s

/-- SPI_GATE_PASS (R84). -/
def execSpiGatePass (idx : BitVec 4) (v : Word) (s : State) : Outcome := pureOp (.word (gatePass idx v)) s

/-- SPI_ASSERT_RESET (R85). -/
def execSpiAssertReset (idx : BitVec 4) (v : Word) (s : State) : Outcome := pureOp (.word (assertReset idx v)) s

/-- SPI_DEASSERT_RESET (R86). -/
def execSpiDeassertReset (idx : BitVec 4) (v : Word) (s : State) : Outcome := pureOp (.word (deassertReset idx v)) s

/-- SPI_GATE_GET (R87). -/
def execSpiGateGet (idx : BitVec 4) (v : Word) (s : State) : Outcome := pureOp (.bit (gateGet idx v)) s

/-- SPI_RESET_GET (R88). -/
def execSpiResetGet (idx : BitVec 4) (v : Word) (s : State) : Outcome := pureOp (.bit (resetGet idx v)) s


end Sys2Proof.Machine
end

