-- ==== Sys2Proof/Machine/Sequencer.lean ====
section
/-! DEFINITION. The gate/reset sequencer of 43_sequencer.md (R101 to R105): one phase step of an operation, on the kind's gating
register, after the index check of R101. -/

namespace Sys2Proof.Machine

open Sys2Proof

/-- UART_BRINGUP (R102). -/
def execUartBringup (idx : BitVec 4) (s : State) : Outcome :=
  checkIndex (decide (idx.toNat < s.params.nUart)) (bringup 0x90C idx s)

/-- UART_POWERDOWN (R104). -/
def execUartPowerdown (idx : BitVec 4) (s : State) : Outcome :=
  checkIndex (decide (idx.toNat < s.params.nUart)) (powerdown 0x90C idx s)

/-- SPI_BRINGUP (R103). -/
def execSpiBringup (idx : BitVec 4) (s : State) : Outcome :=
  checkIndex (decide (idx.toNat < nSpi)) (bringup 0x96C idx s)

/-- SPI_POWERDOWN (R105). -/
def execSpiPowerdown (idx : BitVec 4) (s : State) : Outcome :=
  checkIndex (decide (idx.toNat < nSpi)) (powerdown 0x96C idx s)


end Sys2Proof.Machine
end

