-- ==== Sys2Proof/Machine/SpiClockCodec.lean ====
section
/-! DEFINITION. The SPI clock codec of 42_spiclk_codec.md (R92 to R97): pure functions of a value already read. -/

namespace Sys2Proof.Machine

open Sys2Proof

/-- SPICLK_SOURCE_GET (R92): an unassigned code raises F_DECODE_SRC, gives no value and stops the agent (R116). -/
def execSpiclkSourceGet (v : Word) (s : State) : Outcome :=
  match sourceGet v with
  | some src => pureOp (.source src) s
  | none => oneStep s fun _ => .next (s.raise .decodeSrc (.source (sourceField v)))

/-- SPICLK_SOURCE_SET (R93). -/
def execSpiclkSourceSet (v : Word) (src : SpiClockSource) (s : State) : Outcome := pureOp (.word (sourceSet v src)) s

/-- SPICLK_N_GET (R94). -/
def execSpiclkNGet (v : Word) (s : State) : Outcome := pureOp (.factorN (nGet v)) s

/-- SPICLK_N_SET (R95). -/
def execSpiclkNSet (v : Word) (n : FactorN) (s : State) : Outcome := pureOp (.word (nSet v n)) s

/-- SPICLK_M_GET (R96). -/
def execSpiclkMGet (v : Word) (s : State) : Outcome := pureOp (.factorM (mGet v)) s

/-- SPICLK_M_SET (R97): a divider above 15 raises F_PRECOND_M (R118). -/
def execSpiclkMSet (v : Word) (m : Nat) (s : State) : Outcome :=
  if 15 < m then oneStep s fun _ => .next (s.raise .precondM (.divider m)) else pureOp (.word (mSet v m)) s


end Sys2Proof.Machine
end

