-- ==== Sys2Proof/Machine/Dispatch.lean ====
section
/-! DEFINITION. The meaning of each operation: one phase step of it by the agent whose turn it is (10_state.md R27). -/

namespace Sys2Proof.Machine

open Sys2Proof

/-- One phase step of the operation `i` by the agent whose turn it is. -/
def exec (i : Instr) (s : State) : Host.Outcome State Fault Refusal :=
  match i with
  | .rdUartBgr => Sys2Proof.Machine.execRdUartBgr s
  | .wrUartBgr v => Sys2Proof.Machine.execWrUartBgr v s
  | .rdSpiClk0 => Sys2Proof.Machine.execRdSpiClk0 s
  | .wrSpiClk0 v => Sys2Proof.Machine.execWrSpiClk0 v s
  | .rdSpiClk1 => Sys2Proof.Machine.execRdSpiClk1 s
  | .wrSpiClk1 v => Sys2Proof.Machine.execWrSpiClk1 v s
  | .rdSpiBgr => Sys2Proof.Machine.execRdSpiBgr s
  | .wrSpiBgr v => Sys2Proof.Machine.execWrSpiBgr v s
  | .uartGateMask idx v => Sys2Proof.Machine.execUartGateMask idx v s
  | .uartGatePass idx v => Sys2Proof.Machine.execUartGatePass idx v s
  | .uartAssertReset idx v => Sys2Proof.Machine.execUartAssertReset idx v s
  | .uartDeassertReset idx v => Sys2Proof.Machine.execUartDeassertReset idx v s
  | .uartGateGet idx v => Sys2Proof.Machine.execUartGateGet idx v s
  | .uartResetGet idx v => Sys2Proof.Machine.execUartResetGet idx v s
  | .spiGateMask idx v => Sys2Proof.Machine.execSpiGateMask idx v s
  | .spiGatePass idx v => Sys2Proof.Machine.execSpiGatePass idx v s
  | .spiAssertReset idx v => Sys2Proof.Machine.execSpiAssertReset idx v s
  | .spiDeassertReset idx v => Sys2Proof.Machine.execSpiDeassertReset idx v s
  | .spiGateGet idx v => Sys2Proof.Machine.execSpiGateGet idx v s
  | .spiResetGet idx v => Sys2Proof.Machine.execSpiResetGet idx v s
  | .spiclkSourceGet v => Sys2Proof.Machine.execSpiclkSourceGet v s
  | .spiclkSourceSet v src => Sys2Proof.Machine.execSpiclkSourceSet v src s
  | .spiclkNGet v => Sys2Proof.Machine.execSpiclkNGet v s
  | .spiclkNSet v n => Sys2Proof.Machine.execSpiclkNSet v n s
  | .spiclkMGet v => Sys2Proof.Machine.execSpiclkMGet v s
  | .spiclkMSet v m => Sys2Proof.Machine.execSpiclkMSet v m s
  | .uartBringup idx => Sys2Proof.Machine.execUartBringup idx s
  | .uartPowerdown idx => Sys2Proof.Machine.execUartPowerdown idx s
  | .spiBringup idx => Sys2Proof.Machine.execSpiBringup idx s
  | .spiPowerdown idx => Sys2Proof.Machine.execSpiPowerdown idx s
  | .spiConfigure idx src m n => Sys2Proof.Machine.execSpiConfigure idx src m n s

end Sys2Proof.Machine
end

