-- ==== Sys2Proof/Machine/Turn.lean ====
section
/-! DEFINITION. Whose turn it is: agents, their programs, and the interleaving of their steps (10_state.md R27,
20_memory.md R40, 60_exceptions.md R121, R127), and the submission of a program. -/

namespace Sys2Proof.Machine

open Sys2Proof

/-- The record with which an agent takes its next step: the operation in flight, or the next one of its program, at
phase 0 (R27). None when the agent was stopped by a fault (R115) or its program is finished. -/
def Agent.begin (a : Agent) : Option Agent :=
  if a.stopped then none
  else if !a.done then some a
  else match a.rest with
    | [] => none
    | r :: rs => some { a with op := r, rest := rs, ph := 0, done := false }

/-- The record of an agent. -/
def State.agent (s : State) (id : Nat) : Option Agent := s.agents.find? fun a => a.id == id

/-- An agent that can take a step, as it begins it. -/
def State.beginAgent (s : State) (id : Nat) : Option Agent := (s.agent id).bind Agent.begin

/-- The first agent of the schedule that can take a step, with what follows it. -/
def State.scheduled (s : State) : List Nat → Option (Agent × List Nat)
  | [] => none
  | id :: ids =>
    match s.beginAgent id with
    | some a => some (a, ids)
    | none => s.scheduled ids

/-- Replace the record with the same number. -/
def State.putAgent (s : State) (a : Agent) : State :=
  { s with agents := s.agents.map fun b => if b.id = a.id then a else b }

/-- Give the turn to an agent that begins a step. -/
def State.giveTurn (s : State) (a : Agent) (sched : List Nat) : State :=
  { s.putAgent a with turn := a.id, sched := sched }

/-- The state in which the next step runs (R40, R127): the schedule says whose turn it is; without one that can move
the choice among the agents that can is free (log 5). None when no agent can move. -/
def State.nextTurn (s : State) : Option State :=
  match s.scheduled s.sched with
  | some (a, sched) => some (s.giveTurn a sched)
  | none =>
    match s.agents.filterMap Agent.begin with
    | [] => none
    | [a] => some (s.giveTurn a [])
    | a :: b :: more =>
      some { s.giveTurn ((a :: b :: more).getD (Config.choice s.picked % (more.length + 2)) a) [] with
        picked := s.picked + 1 }

/-- A request's rejection, if it has one (R63, R121); a raw access has none. -/
def rejection (nUart : Nat) : Request → Option Rejection
  | .op d o =>
    match decode nUart d o with
    | .ok _ => none
    | .error e => some e
  | .rawRead _ _ => none
  | .rawWrite _ _ _ => none

/-- The first rejection in a list of requests. -/
def firstRejection (nUart : Nat) (rs : List Request) : Option Rejection := rs.findSome? (rejection nUart)

/-- The first rejection in what an agent has in flight and still has to run. -/
def Agent.rejection (nUart : Nat) (a : Agent) : Option Rejection := firstRejection nUart (a.op :: a.rest)

/-- A program (95_test_vectors.md section 3): for each of its agents a first request and those that follow it. Every
operand is a constant of the program: R62 does not say how a value one operation gives out becomes an operand of a
later one (log 26). -/
abbrev Program := List (Request × List Request)

/-- The first rejection in a program. -/
def Program.rejection (nUart : Nat) (p : Program) : Option Rejection :=
  p.findSome? fun x => firstRejection nUart (x.1 :: x.2)

/-- A number no agent has. -/
def State.freshId (s : State) : Nat := s.agents.foldl (fun n a => max n (a.id + 1)) 0

/-- A new agent with a first request and those that follow it (R27, R127). -/
def State.spawn (s : State) (r : Request) (rest : List Request) : State :=
  { s with agents := s.agents ++
      [{ id := s.freshId, op := r, rest := rest, ph := 0, tmp := 0, done := false, stopped := false }] }

/-- A caller submits a program. One that holds a refused operation is refused as a whole: no agent is created, the
machine's state stays what it is, and the answer is the refusal (R121; log 10). Any other gets its agents. -/
def State.submit (s : State) (p : Program) : Except Rejection State :=
  match p.rejection s.params.nUart with
  | some e => .error e
  | none => .ok (p.foldl (fun t x => t.spawn x.1 x.2) s)

end Sys2Proof.Machine
end

