-- ==== Sys2Proof/Machine/Step.lean ====
section
/-! DEFINITION. One step of the machine: one phase step of one agent (10_state.md R27, 20_memory.md R40). -/

namespace Sys2Proof.Machine

open Sys2Proof

/-- Run the request an agent has in flight: the decoded operation, or a raw access (R119). A refused operation never
runs (R121, R122); no submitted program holds one (`State.submit`; log 10). -/
def runRequest (r : Request) (s : State) : Host.Outcome State Fault Refusal :=
  match r with
  | .op d o =>
    match decode s.params.nUart d o with
    | .ok i => exec i s
    | .error e => .refused (.rejected e)
  | .rawRead addr width => rawRead addr width s
  | .rawWrite addr width v => rawWrite addr width v s

/-- The step of the agent whose turn it is. -/
def runTurn (s : State) : Host.Outcome State Fault Refusal :=
  match s.current with
  | none => .fault .noOperationInFlight
  | some a => runRequest a.op s

/-- One step. With no agent able to move the block does nothing (R46, R135; log 6). -/
def step (s : State) : Host.Outcome State Fault Refusal :=
  match s.nextTurn with
  | none => .next s
  | some t => runTurn t

/-- For the host: the operation with the descriptor `w` and every operand word zero, submitted by a new agent that
moves next. A program is loaded from outside the machine; this stands for that load (log 9). A refused descriptor
creates no agent, so the state stays what it is (R121). -/
def State.withFetchWord (s : State) (nbits w : Nat) : State :=
  match s.submit [(.op (BitVec.ofNat 32 (w % 2 ^ nbits)) .zero, [])] with
  | .ok t => { t with sched := s.freshId :: t.sched }
  | .error _ => s

end Sys2Proof.Machine
end

