-- ==== Sys2Proof/Machine/Asm.lean ====
section
/-! DEFINITION. The textual syntax of 30_encoding.md R65: one line names one operation with its operands. A line gives
a request, which the decoder then admits or refuses; an unknown source or factor name is REF_ENUM (60_exceptions.md
R121). The choices R65 leaves open are in log 21: among them, which refusal a line with several bad operands gets, and
that a value operand is a number and never a name bound to an earlier result. -/

namespace Sys2Proof.Machine.Asm

open Sys2Proof

/-- What a line stands for. -/
inductive Parsed where
  | request (r : Request)
  | refused (why : Rejection)
  /-- The text is no line of R65. -/
  | notALine
  deriving DecidableEq, Repr

/-- Cut a text at every separator. -/
def splitAt (sep : Char) : List Char → List (List Char)
  | [] => [[]]
  | c :: cs =>
    if c = sep then [] :: splitAt sep cs
    else match splitAt sep cs with
      | [] => [[c]]
      | w :: ws => (c :: w) :: ws

/-- The value of a digit; letters serve hexadecimal numbers. -/
def digit (c : Char) : Option Nat :=
  let k := c.toNat
  if 48 ≤ k ∧ k ≤ 57 then some (k - 48)
  else if 97 ≤ k ∧ k ≤ 102 then some (k - 87)
  else if 65 ≤ k ∧ k ≤ 70 then some (k - 55)
  else none

/-- A run of digits of a base, continuing from `acc`. -/
def digitsFrom (base acc : Nat) : List Char → Option Nat
  | [] => some acc
  | c :: cs =>
    match digit c with
    | some d => if d < base then digitsFrom base (base * acc + d) cs else none
    | none => none

/-- A number: decimal or `0x` hexadecimal (R65). -/
def number : List Char → Option Nat
  | '0' :: 'x' :: c :: cs => digitsFrom 16 0 (c :: cs)
  | c :: cs => digitsFrom 10 0 (c :: cs)
  | [] => none

/-- Look a name up. -/
def named {α : Type} (table : List (String × α)) (name : List Char) : Option α :=
  (table.find? fun p => p.1.toList == name).map fun p => p.2

/-- The register names of `rd32` and `wr32` (R65). -/
def registers : List (String × (Mnemonic × Mnemonic)) :=
  [("uart_bgr", (.rdUartBgr, .wrUartBgr)), ("spi_clk0", (.rdSpiClk0, .wrSpiClk0)),
   ("spi_clk1", (.rdSpiClk1, .wrSpiClk1)), ("spi_bgr", (.rdSpiBgr, .wrSpiBgr))]

/-- The clock-source names (R65). -/
def sources : List (String × SpiClockSource) :=
  [("hosc", .hosc), ("pll_peri_1x", .pllPeri1x), ("pll_peri_2x", .pllPeri2x),
   ("pll_audio1_div2", .pllAudio1Div2), ("pll_audio1_div5", .pllAudio1Div5)]

/-- The factor names (R65). -/
def factors : List (String × FactorN) := [("n1", .n1), ("n2", .n2), ("n4", .n4), ("n8", .n8)]

/-- The operation names with operands `<I>, <v>` (R65). -/
def gatingForms : List (String × Mnemonic) :=
  [("uart.gate_mask", .uartGateMask), ("uart.gate_pass", .uartGatePass), ("uart.assert_reset", .uartAssertReset),
   ("uart.deassert_reset", .uartDeassertReset), ("uart.gate", .uartGateGet), ("uart.reset_bit", .uartResetGet),
   ("spi.gate_mask", .spiGateMask), ("spi.gate_pass", .spiGatePass), ("spi.assert_reset", .spiAssertReset),
   ("spi.deassert_reset", .spiDeassertReset), ("spi.gate", .spiGateGet), ("spi.reset_bit", .spiResetGet)]

/-- The operation names with operand `<v>` (R65). -/
def valueForms : List (String × Mnemonic) :=
  [("spiclk.source", .spiclkSourceGet), ("spiclk.n", .spiclkNGet), ("spiclk.m", .spiclkMGet)]

/-- The operation names with operand `<I>`: HAL's `reset` and `free` (R65). -/
def sequencerForms : List (String × Mnemonic) :=
  [("uart.reset", .uartBringup), ("uart.free", .uartPowerdown), ("spi.reset", .spiBringup), ("spi.free", .spiPowerdown)]

/-- A 32-bit value operand `<v>`: a number. A name bound to an earlier result, as the text column of P1 to P5 in
95_test_vectors.md writes it, is no operand of R65 here (DESIGN CHOICE, log 21). -/
def value (t : List Char) (k : Word → Parsed) : Parsed :=
  match number t with
  | some n => if n < 2 ^ 32 then k (BitVec.ofNat 32 n) else .notALine
  | none => .notALine

/-- An index operand; one that does not fit the field I is answered with `tooBig`. -/
def index (t : List Char) (tooBig : Parsed) (k : BitVec 4 → Parsed) : Parsed :=
  match number t with
  | some n => if n < 16 then k (BitVec.ofNat 4 n) else tooBig
  | none => .notALine

/-- A clock-source operand; an unknown name is REF_ENUM (R121). -/
def source (t : List Char) (k : SpiClockSource → Parsed) : Parsed :=
  match named sources t with
  | some s => k s
  | none => .refused .enum

/-- A factor-N operand; an unknown name is REF_ENUM (R121). -/
def factorN (t : List Char) (k : FactorN → Parsed) : Parsed :=
  match named factors t with
  | some n => k n
  | none => .refused .enum

/-- The request of a row with an index and operands. -/
def row (k : Mnemonic) (idx : BitVec 4) (o : Operands) : Parsed := .request (.op (k.pattern ||| idx.zeroExtend 32) o)

/-- A line whose operation takes an index, by its operands (R65). -/
def indexed (name : List Char) (args : List (List Char)) : Parsed :=
  match named gatingForms name, named sequencerForms name, args with
  | some k, _, [i, v] => index i .notALine fun i => value v fun v => row k i { Operands.zero with v := v }
  | none, some k, [i] => index i (.refused .index) fun i => row k i .zero
  | _, _, _ => .notALine

/-- A line of the SPI clock codec or of the configurator, by its operands (R65). The operands are looked at from left to
right and the first bad one decides (DESIGN CHOICE, log 21): in a `spi.config` line an index that is no SPI instance is
REF_INDEX whatever the names after it are, as in the decoder (log 7). -/
def clocked (name : List Char) (args : List (List Char)) : Parsed :=
  match named valueForms name, args with
  | some k, [v] => value v fun v => row k 0 { Operands.zero with v := v }
  | none, [v, x] =>
    if name = "spiclk.set_source".toList then value v fun v => source x fun s =>
      row .spiclkSourceSet 0 { Operands.zero with v := v, src := (encodeSrc s).toNat }
    else if name = "spiclk.set_n".toList then value v fun v => factorN x fun n =>
      row .spiclkNSet 0 { Operands.zero with v := v, n := (encodeN n).toNat }
    else if name = "spiclk.set_m".toList then value v fun v =>
      match number x with
      | some m => row .spiclkMSet 0 { Operands.zero with v := v, m := m }
      | none => .notALine
    else .notALine
  | none, [i, s, m, n] =>
    if name = "spi.config".toList then index i (.refused .index) fun i =>
      if i.toNat < nSpi then source s fun s =>
        match number m with
        | some m => factorN n fun n =>
          row .spiConfigure i { Operands.zero with src := (encodeSrc s).toNat, m := m, n := (encodeN n).toNat }
        | none => .notALine
      else .refused .index
    else .notALine
  | _, _ => .notALine

/-- A `rd32` or `wr32` line (R65). -/
def bus (name : List Char) (args : List (List Char)) : Parsed :=
  match args with
  | [r] =>
    match named registers r with
    | some (rd, _) => if name = "rd32".toList then row rd 0 .zero else .notALine
    | none => .notALine
  | [r, v] =>
    match named registers r with
    | some (_, wr) =>
      if name = "wr32".toList then value v fun v => row wr 0 { Operands.zero with v := v } else .notALine
    | none => .notALine
  | _ => .notALine

/-- A line: the operation's name up to the first blank, then its operands, with commas between them and blanks without
meaning (R65; log 21). -/
def line (text : String) : Parsed :=
  let cs := text.toList
  let name := cs.takeWhile fun c => c != ' '
  let args := (splitAt ',' (cs.dropWhile fun c => c != ' ')).map fun t => t.filter fun c => c != ' '
  if name = "rd32".toList ∨ name = "wr32".toList then bus name args
  else match indexed name args with
    | .notALine => clocked name args
    | p => p

end Sys2Proof.Machine.Asm
end

