-- ==== Sys2Proof/Machine/Flags.lean ====
section
/-! DEFINITION. The block has no flags or condition codes (10_state.md R26). What stands here is what the spec computes
from the registers and does not store: the outputs (R28), the logical state of an instance (R22) and the history
predicate behind "configured" (R23). The spec gives outputs and logical states to existing instances only. The
functions below take any 4-bit index, and what they give for an index that is no instance is the model's choice
(DESIGN CHOICE, log 28). -/

namespace Sys2Proof.Machine

open Sys2Proof

/-- How many instances a kind has (R6, R7). -/
def instances (p : Params) : Kind → Nat
  | .uart => p.nUart
  | .spi => nSpi

/-- `gate_out[k][I]` (R17, R28): 1 when the clock reaches the instance. For an index that is no instance, the stored
undefined bit I (DESIGN CHOICE, log 28). -/
def State.gateOut (s : State) (k : Kind) (idx : BitVec 4) : Bool := gateGet idx (s.reg (bgr k))

/-- `rst_deassert_out[k][I]` (R18, R28): 1 when the instance is out of reset. For an index that is no instance, the
stored undefined bit I+16 (DESIGN CHOICE, log 28). -/
def State.rstDeassertOut (s : State) (k : Kind) (idx : BitVec 4) : Bool := resetGet idx (s.reg (bgr k))

/-- `src_sel_out[I]` (R28). This and the next two read `spi_clk[1]` for an index from 2 up (DESIGN CHOICE, log 28). -/
def State.srcSelOut (s : State) (idx : BitVec 4) : BitVec 3 := sourceField (s.reg (spiClk idx))

/-- `n_out[I]` (R28), the raw field; from index 2 up as log 28 says. -/
def State.nOut (s : State) (idx : BitVec 4) : BitVec 2 := getField (s.reg (spiClk idx)) 8 2

/-- `m_out[I]` (R28), the raw field; from index 2 up as log 28 says. -/
def State.mOut (s : State) (idx : BitVec 4) : BitVec 4 := mGet (s.reg (spiClk idx))

/-- The logical state of an instance (R22). -/
inductive LogicalState where
  | heldInReset
  | running
  /-- GATE and RST differ (D25). -/
  | partialState
  deriving DecidableEq, Repr

/-- The logical state in the contents of a gating register (R22). -/
def logicalStateOf (v : Word) (idx : BitVec 4) : LogicalState :=
  match gateGet idx v, resetGet idx v with
  | false, false => .heldInReset
  | true, true => .running
  | true, false => .partialState
  | false, true => .partialState

/-- The logical state of an instance (R22). For an index that is no instance it is computed from the stored undefined
bits (DESIGN CHOICE, log 28). -/
def State.logicalState (s : State) (k : Kind) (idx : BitVec 4) : LogicalState := logicalStateOf (s.reg (bgr k)) idx

/-- One completed operation's effect on "configured since its last bring-up" of an SPI instance (R23); none before the
first bring-up. -/
def configuredStep (nUart : Nat) (idx : BitVec 4) (acc : Option Bool) (c : Completion) : Option Bool :=
  match c.op with
  | .op d o =>
    match decode nUart d o with
    | .ok (.spiBringup j) => if j = idx then some false else acc
    | .ok (.spiConfigure j _ _ _) => if j = idx then acc.map fun _ => true else acc
    | _ => acc
  | _ => acc

/-- Whether a configure of the SPI instance has run since its last bring-up (R23): a predicate of the history of
completed operations, not state. -/
def State.configuredSinceBringup (s : State) (idx : BitVec 4) : Bool :=
  s.completed.foldl (configuredStep s.params.nUart idx) none == some true

end Sys2Proof.Machine
end

