-- ==== Sys2Proof/Safety.lean ====
section
/-! DEFINITION. What counts as a safe and a final run, the invariant of the machine, and the relations between the
state before and after a step in which the statements are written. -/

namespace Sys2Proof.Machine

open Sys2Proof

/-- No fault has been recorded (R25). -/
def State.faultFree (s : State) : Prop := s.faults = []

/-- A final state: FAULTS is empty and every agent's program has run to its end. R25 says that a state with a record in
FAULTS is never final, and no rule says which states without one are. That every program must have run to its end, so
that a state without agents such as State.reset is final, is the model's choice (DESIGN CHOICE, log 29). -/
def State.final (s : State) : Prop := s.faultFree ∧ ∀ a ∈ s.agents, a.done = true ∧ a.rest = []

/-- The agent whose turn it is has the operation in flight that record `a` holds, at phase `k`. -/
def State.runs (s : State) (a : Agent) (k : Nat) : Prop := s.current = some a ∧ a.ph = k

/-- The phase counter names a phase of the operation in flight (R102 to R105, R111). -/
def phaseOk (nUart : Nat) (a : Agent) : Bool :=
  a.done || a.ph == 0 ||
    match a.op with
    | .op d o =>
      match decode nUart d o with
      | .ok i => decide (a.ph < phases i)
      | .error _ => false
    | .rawRead _ _ => false
    | .rawWrite _ _ _ => false

/-- The agents have different numbers. -/
def State.idsDistinct (s : State) : Prop := (s.agents.map fun a => a.id).Nodup

/-- The invariant of the machine: admitted parameters (R7, D10), agents with different numbers, a fault set without
repeats (R25), phase counters that name phases (R27), and no agent with a refused operation in flight or still to run
(R121). -/
structure State.Inv (s : State) : Prop where
  params : s.params.wf = true
  ids : s.idsDistinct
  faults : s.faults.Nodup
  phases : ∀ a ∈ s.agents, phaseOk s.params.nUart a = true
  admitted : ∀ a ∈ s.agents, a.rejection s.params.nUart = none

/-- The value the most recent write in a history gave a register, or the value it had before the history (R19). -/
def lastWritten (h : List Event) (r : Reg) (before : Word) : Word :=
  h.foldl (fun v e => if e.dir = .write ∧ e.off = r.off then e.value else v) before

/-- The fields no operation writes: the parameters, the schedule, the turn and the count of scheduling choices. -/
def State.keepsControl (s t : State) : Prop :=
  t.params = s.params ∧ t.sched = s.sched ∧ t.turn = s.turn ∧ t.picked = s.picked

/-- Every register and every byte of the byte view (R38) reads as before. -/
def State.keepsRegisters (s t : State) : Prop := (∀ r, t.reg r = s.reg r) ∧ ∀ b, t.byteAt b = s.byteAt b

/-- The record of the agent whose turn it is changes by `f`, and no other. -/
def State.turnBecomes (s t : State) (f : Agent → Agent) : Prop :=
  t.agents = s.agents.map fun b => if b.id = s.turn then f b else b

/-- The operation in flight is reported complete with a result, after those before it (R62). -/
def State.reports (s t : State) (a : Agent) (res : Result) : Prop :=
  t.completed = s.completed ++ [{ agent := s.turn, op := a.op, result := res }]

/-- What a read of a register may return (R19, R20): without external mutation the defined bits are the stored ones,
and the others are the draw's, or the stored ones under UNDEF_BITS = storage; with it every bit is the draw's. -/
def State.mayRead (s : State) (r : Reg) (v : Word) : Prop :=
  ∀ k, k < 32 → v.getLsbD k =
    if s.params.externalMutation = true then (Config.draw s.drawn).getLsbD k
    else if (r.definedMask s.params.nUart).getLsbD k = true ∨ s.params.undefBits = .storage then (s.reg r).getLsbD k
    else (Config.draw s.drawn).getLsbD k

/-- FAULTS after an access to `r` (R44): the records there were, and one F_RACE against the accessing agent for every
other agent whose window on `r` is open. -/
def State.recordsRaces (s t : State) (r : Reg) : Prop :=
  ∀ f, f ∈ t.faults ↔ f ∈ s.faults ∨ ∃ b ∈ s.agents, b.id ≠ s.turn ∧ b.window s.params.nUart = some r ∧
    f = { code := .race, agent := s.turn, info := .race b.id r.off }

/-- One read of a register, and nothing else but the agent's record and its report (R35, R44, R48). -/
def State.didRead (s t : State) (r : Reg) (v : Word) : Prop :=
  s.mayRead r v ∧ s.keepsControl t ∧ s.keepsRegisters t ∧ s.recordsRaces t r ∧ t.drawn = s.drawn + 1 ∧
    t.history = s.history ++ [{ agent := s.turn, dir := .read, off := r.off, value := v }]

/-- One write of a register, and nothing else but the agent's record and its report (R36, R44, R48): every other
register, and every byte outside the four at the register's bus address, reads as before. -/
def State.didWrite (s t : State) (r : Reg) (v : Word) : Prop :=
  t.reg r = v ∧ (∀ q, q ≠ r → t.reg q = s.reg q) ∧
    (∀ b, ¬(s.params.ccuBase + r.off ≤ b ∧ b < s.params.ccuBase + r.off + 4) → t.byteAt b = s.byteAt b) ∧
    s.keepsControl t ∧ s.recordsRaces t r ∧ t.drawn = s.drawn ∧
    t.history = s.history ++ [{ agent := s.turn, dir := .write, off := r.off, value := v }]

/-- No access at all: registers, history and the draw count are as before (R27, R123). -/
def State.noAccess (s t : State) : Prop :=
  s.keepsControl t ∧ s.keepsRegisters t ∧ t.history = s.history ∧ t.drawn = s.drawn

/-- The step with outcome `x` runs the operation to its end without an access and gives `res` out: a pure codec
function (R27, R100). -/
def State.givesPure (s : State) (x : Outcome) (a : Agent) (res : Result) : Prop :=
  ∃ t, x = .next t ∧ s.reports t a res ∧ s.noAccess t ∧ t.faults = s.faults ∧
    s.turnBecomes t fun b => { b with done := true }

/-- The step with outcome `x` raises a fault before any access: the record is added, the agent stops, nothing is
reported and everything else is as before (R115, R123). -/
def State.raises (s : State) (x : Outcome) (code : FaultCode) (info : FaultInfo) : Prop :=
  ∃ t, x = .next t ∧ s.noAccess t ∧ t.completed = s.completed ∧
    (∀ f, f ∈ t.faults ↔ f ∈ s.faults ∨ f = { code := code, agent := s.turn, info := info }) ∧
    s.turnBecomes t fun b => { b with stopped := true }

/-- The step with outcome `x` reads `r`, and the operation goes on at phase `k` with the value read in `tmp`. -/
def State.readsOn (s : State) (x : Outcome) (r : Reg) (k : Nat) : Prop :=
  ∃ t v, x = .next t ∧ s.didRead t r v ∧ t.completed = s.completed ∧
    s.turnBecomes t fun b => { b with tmp := v, ph := k }

/-- The step with outcome `x` writes `w` to `r`, and the operation goes on at phase `k`. -/
def State.writesOn (s : State) (x : Outcome) (a : Agent) (r : Reg) (w : Word) (k : Nat) : Prop :=
  ∃ t, x = .next t ∧ s.didWrite t r w ∧ t.completed = s.completed ∧
    s.turnBecomes t fun b => { b with tmp := a.tmp, ph := k }

/-- The step with outcome `x` reads `r`, and the operation is done with the value read as its result. -/
def State.readsLast (s : State) (x : Outcome) (a : Agent) (r : Reg) : Prop :=
  ∃ t v, x = .next t ∧ s.didRead t r v ∧ s.reports t a (.word v) ∧
    s.turnBecomes t fun b => { b with tmp := v, ph := 0, done := true }

/-- The step with outcome `x` writes `w` to `r`, and the operation is done. -/
def State.writesLast (s : State) (x : Outcome) (a : Agent) (r : Reg) (w : Word) : Prop :=
  ∃ t, x = .next t ∧ s.didWrite t r w ∧ s.reports t a .unit ∧ s.turnBecomes t fun b => { b with done := true }

/-- `v` with the gate and the reset bit of the instance cleared, and nothing else (R106). -/
def heldBits (idx : BitVec 4) (v w : Word) : Prop :=
  ∀ k, k < 32 → w.getLsbD k = if k = idx.toNat ∨ k = idx.toNat + 16 then false else v.getLsbD k

/-- `v` with the gate and the reset bit of the instance set, and nothing else (R106). -/
def runningBits (idx : BitVec 4) (v w : Word) : Prop :=
  ∀ k, k < 32 → w.getLsbD k = if k = idx.toNat ∨ k = idx.toNat + 16 then true else v.getLsbD k

/-- The bring-up and the power-down of a kind. -/
def bringupOf : Kind → BitVec 4 → Instr
  | .uart, idx => .uartBringup idx
  | .spi, idx => .spiBringup idx

/-- The power-down of a kind. -/
def powerdownOf : Kind → BitVec 4 → Instr
  | .uart, idx => .uartPowerdown idx
  | .spi, idx => .spiPowerdown idx

/-- The agent with the number `id` is about to run the operation `i` as the last of its program: it is at phase 0. -/
def State.starts (s : State) (id : Nat) (i : Instr) : Prop :=
  ∃ a d o, s.agent id = some a ∧ a.op = .op d o ∧ decode s.params.nUart d o = .ok i ∧ a.rest = [] ∧ a.ph = 0 ∧
    a.done = false ∧ a.stopped = false

/-- The program of the agent with the number `id` has run to its end. -/
def State.finished (s : State) (id : Nat) : Prop := ∃ a, s.agent id = some a ∧ a.done = true ∧ a.rest = []

end Sys2Proof.Machine
end

