-- ==== Sys2Proof/Certificates/Slice0/Obligations.lean ====
section
/-! DEFINITION. The statements for the provers, from the numbered rules of spec/. The relations they are written in
(`runs`, `givesPure`, `raises`, `readsOn`, `readsLast`, `writesOn`, `writesLast`, …) are those of Safety.lean; each
says what the step leaves unchanged as well. -/

open Sys2Proof Sys2Proof.Machine

/-! ### Encoding (30_encoding.md) -/

/-- Decoding the encoding of an operation gives the operation back, with every operand (R57, R62). -/
def Obligations.DecodeOfEncodeIsTheInstruction : Prop :=
  ∀ (nUart : Nat) (i : Instr), i.wf nUart = true → decode nUart (encodeDesc i) (encodeOperands i) = .ok i

/-- A descriptor the decoder admits is the encoding of the operation it gives, whose index is in range: no bit of a
descriptor is ignored (R57, R63). -/
def Obligations.AdmittedDescriptorIsTheEncoding : Prop :=
  ∀ (nUart : Nat) (d : Word) (o : Operands) (i : Instr),
    decode nUart d o = .ok i → encodeDesc i = d ∧ i.wf nUart = true

/-- The decoder is total and each descriptor has one answer (R63): no two rows match one descriptor; without a row it
is REF_DESCRIPTOR, which takes in every BUS descriptor whose OFF is no register; a sequencer or configurator index out
of range is REF_INDEX; otherwise the row's operation, or REF_ENUM for an operand that is none of its variants. That
REF_INDEX is reported where an enumeration operand is bad too is the model's choice (log 7). -/
def Obligations.DecoderGivesOneAnswer : Prop :=
  ∀ (nUart : Nat) (d : Word) (o : Operands),
    (∀ k k' : Mnemonic, d &&& k.mask = k.pattern → d &&& k'.mask = k'.pattern → k = k') ∧
    ((∀ k : Mnemonic, d &&& k.mask ≠ k.pattern) → decode nUart d o = .error .descriptor) ∧
    (d.extractLsb' 28 4 = 0 → d.extractLsb' 0 12 ∉ [0x90C#12, 0x940#12, 0x944#12, 0x96C#12] →
      decode nUart d o = .error .descriptor) ∧
    ∀ k : Mnemonic, d &&& k.mask = k.pattern →
      let idx := (d.extractLsb' 0 4).toNat
      let outOfRange := k ∈ [Mnemonic.uartBringup, .uartPowerdown] ∧ nUart ≤ idx ∨
        k ∈ [Mnemonic.spiBringup, .spiPowerdown, .spiConfigure] ∧ 2 ≤ idx
      let badEnum := k ∈ [Mnemonic.spiclkSourceSet, .spiConfigure] ∧ 5 ≤ o.src ∨
        k ∈ [Mnemonic.spiclkNSet, .spiConfigure] ∧ 4 ≤ o.n
      (outOfRange → decode nUart d o = .error .index) ∧
        (¬outOfRange → badEnum → decode nUart d o = .error .enum) ∧
        (¬outOfRange → ¬badEnum → ∃ i, decode nUart d o = .ok i ∧ i.mnemonic = k)

/-- Reading a descriptor by its class and its class's fields, with every must-be-zero field checked (R50 to R56, R64),
gives the same row as the match and mask values (R57). -/
def Obligations.FieldFormatsAgreeWithTheRows : Prop := ∀ d : Word, rowByFields d = decodeRow d

/-- Descriptors of 95_test_vectors.md section 2.6 decode as it says (with 6 UARTs and every operand zero). -/
def Obligations.SpecDescriptorsDecode : Prop :=
  decode 6 0x0000090C .zero = .ok .rdUartBgr ∧
  decode 6 0x00010944 .zero = .ok (.wrSpiClk1 0) ∧
  decode 6 0x0000090D .zero = .error .descriptor ∧
  decode 6 0x1100030F .zero = .ok (.spiDeassertReset 15 0) ∧
  decode 6 0x10000600 .zero = .error .descriptor ∧
  decode 6 0x12000000 .zero = .error .descriptor ∧
  decode 6 0x20000500 .zero = .ok (.spiclkMSet 0 0) ∧
  decode 6 0x20000501 .zero = .error .descriptor ∧
  decode 6 0x31000101 .zero = .ok (.spiPowerdown 1) ∧
  decode 6 0x50000000 .zero = .error .descriptor ∧
  decode 6 0x31000002 .zero = .error .index ∧
  decode 6 0x30000006 .zero = .error .index ∧
  decode 6 0x40000000 .zero = .error .descriptor

/-- The enumeration codes: sources 0..4 in listing order with 5, 6, 7 unassigned, factors N 0..3. The pairing by listing
order is the spec's own reading of its source (IMP-9; R58, R59, R60 follow it). -/
def Obligations.EnumerationCodes : Prop :=
  ([SpiClockSource.hosc, .pllPeri1x, .pllPeri2x, .pllAudio1Div2, .pllAudio1Div5].map encodeSrc = [0, 1, 2, 3, 4]) ∧
  ([0, 1, 2, 3, 4, 5, 6, 7].map decodeSrc = [some .hosc, some .pllPeri1x, some .pllPeri2x, some .pllAudio1Div2,
    some .pllAudio1Div5, none, none, none]) ∧
  ([FactorN.n1, .n2, .n4, .n8].map encodeN = [0, 1, 2, 3]) ∧
  ([0, 1, 2, 3].map decodeN = [FactorN.n1, .n2, .n4, .n8])

/-- Lines of the textual syntax of R65 name the operations 95_test_vectors.md writes beside them; an unknown source or
factor name is REF_ENUM (R121). -/
def Obligations.TextLinesNameOperations : Prop :=
  Asm.line "rd32 uart_bgr" = .request (encode .rdUartBgr) ∧
  Asm.line "wr32 spi_clk1, 0x04000301" = .request (encode (.wrSpiClk1 0x04000301)) ∧
  Asm.line "uart.gate 1, 2" = .request (encode (.uartGateGet 1 2)) ∧
  Asm.line "spiclk.set_m 0x000000F0, 4" = .request (encode (.spiclkMSet 0xF0 4)) ∧
  Asm.line "spi.free 1" = .request (encode (.spiPowerdown 1)) ∧
  Asm.line "spi.config 1, pll_peri_1x, 4, n4" = .request (encode (.spiConfigure 1 .pllPeri1x 4 .n4)) ∧
  Asm.line "spi.config 1, pll_peri_3x, 4, n4" = .refused .enum ∧
  Asm.line "spiclk.set_n 0, n3" = .refused .enum

/-! ### Registers and addresses (10_state.md, 20_memory.md) -/

/-- The defined bits of the four registers (R14, R15, R16). -/
def Obligations.DefinedBitsOfTheRegisters : Prop :=
  ∀ n k : Nat, n ≤ 16 → k < 32 →
    ((Reg.uartBgr.definedMask n).getLsbD k = true ↔ k < n ∨ 16 ≤ k ∧ k < 16 + n) ∧
    ((Reg.spiBgr.definedMask n).getLsbD k = true ↔ k < 2 ∨ 16 ≤ k ∧ k < 18) ∧
    ∀ r ∈ [Reg.spiClk0, Reg.spiClk1],
      ((r.definedMask n).getLsbD k = true ↔ k < 4 ∨ 8 ≤ k ∧ k < 10 ∨ 24 ≤ k ∧ k < 27)

/-- The registers lie at CCU_BASE + 0x90C, 0x940, 0x944 and 0x96C; in the byte view the four bytes there hold the word,
least significant first, and no other address holds a byte (R24). The view and its little-endian order are the model's
(log 15: DEDUCED, the order PRESUMED; R38 takes it from general knowledge, D4, and says that no access shows it). -/
def Obligations.RegistersLieAtTheirOffsets : Prop :=
  (Reg.uartBgr.off = 0x90C ∧ Reg.spiClk0.off = 0x940 ∧ Reg.spiClk1.off = 0x944 ∧ Reg.spiBgr.off = 0x96C) ∧
  ∀ s : State,
    (∀ (r : Reg) (j : Nat), j < 4 →
      s.byteAt (s.params.ccuBase + r.off + j) = some ((s.reg r).extractLsb' (8 * j) 8)) ∧
    ∀ b : Nat, (∀ r : Reg, ¬(s.params.ccuBase + r.off ≤ b ∧ b < s.params.ccuBase + r.off + 4)) → s.byteAt b = none

/-- The logical state of an instance is computed from its gate and reset bit (R22). For an index that is no instance the
value is the model's choice (log 28). -/
def Obligations.LogicalStateOfTheBits : Prop :=
  ∀ (s : State) (k : Kind) (idx : BitVec 4),
    let gate := (s.reg (bgr k)).getLsbD idx.toNat
    let rst := (s.reg (bgr k)).getLsbD (idx.toNat + 16)
    s.logicalState k idx =
      if gate = false ∧ rst = false then .heldInReset
      else if gate = true ∧ rst = true then .running
      else .partialState

/-- The outputs are the bits of the registers (R28). For an index that is no instance gateOut and rstDeassertOut are the
model's choice (log 28). -/
def Obligations.OutputsAreRegisterBits : Prop :=
  ∀ (s : State) (k : Kind) (idx : BitVec 4),
    s.gateOut k idx = (s.reg (bgr k)).getLsbD idx.toNat ∧
    s.rstDeassertOut k idx = (s.reg (bgr k)).getLsbD (idx.toNat + 16) ∧
    s.srcSelOut 0 = s.spiClk0.extractLsb' 24 3 ∧ s.srcSelOut 1 = s.spiClk1.extractLsb' 24 3 ∧
    s.nOut 0 = s.spiClk0.extractLsb' 8 2 ∧ s.nOut 1 = s.spiClk1.extractLsb' 8 2 ∧
    s.mOut 0 = s.spiClk0.extractLsb' 0 4 ∧ s.mOut 1 = s.spiClk1.extractLsb' 0 4

/-- Reset leaves the registers at their reset values, whatever these are, and FAULTS, the agents and the event history
empty (R133, R134). -/
def Obligations.ResetLeaves : Prop :=
  (∀ (p : Params) (v : ResetValues),
    let s := State.resetWith p v
    s.uartBgr = v.uartBgr ∧ s.spiClk0 = v.spiClk0 ∧ s.spiClk1 = v.spiClk1 ∧ s.spiBgr = v.spiBgr ∧
      s.faults = [] ∧ s.agents = [] ∧ s.history = []) ∧
  ∃ (p : Params) (v : ResetValues), State.reset = State.resetWith p v

/-! ### Bus accesses (40_bus_access.md) -/

/-- The four bus reads: one read of the register, whose value is the result; no register and no byte changes; F_RACE is
the only fault (R35, R67, R68, R70, R72, R74). -/
def Obligations.BusReadsGiveTheRegister : Prop :=
  ∀ x ∈ [(Instr.rdUartBgr, Reg.uartBgr, 0x0000090C#32), (.rdSpiClk0, .spiClk0, 0x00000940#32),
      (.rdSpiClk1, .spiClk1, 0x00000944#32), (.rdSpiBgr, .spiBgr, 0x0000096C#32)],
    (∀ (nUart : Nat) (o : Operands), decode nUart x.2.2 o = .ok x.1) ∧
    ∀ (s : State) (a : Agent), s.runs a 0 → s.readsLast (exec x.1 s) a x.2.1

/-- The four bus writes: the register becomes `v`, whatever `v` is, and no other register and no byte outside its four
changes; F_RACE is the only fault (R36, R67, R69, R71, R73, R75). -/
def Obligations.BusWritesReplaceTheRegister : Prop :=
  ∀ x ∈ [(Instr.wrUartBgr, Reg.uartBgr, 0x0001090C#32), (.wrSpiClk0, .spiClk0, 0x00010940#32),
      (.wrSpiClk1, .spiClk1, 0x00010944#32), (.wrSpiBgr, .spiBgr, 0x0001096C#32)],
    (∀ (nUart : Nat) (o : Operands), decode nUart x.2.2 o = .ok (x.1 o.v)) ∧
    ∀ (s : State) (a : Agent) (v : Word), s.runs a 0 → s.writesLast (exec (x.1 v) s) a x.2.1 v

/-- An access by a route outside the descriptor decoder: F_ACCESS for a width other than 4 bytes or a misaligned offset
(R37), which wins where the access is misaligned and unmapped (R122); F_UNMAPPED for any other place that is no register
(R34); no register is touched and the agent stops. A 32-bit access to a register is as the bus operations' (R35, R36).
The model's choices in it: absolute addresses, those below CCU_BASE among them, and widths in bytes (log 13), that such
an access to a register behaves as a bus operation (log 13), F_ACCESS for an aligned access of a wrong width that is
unmapped too (log 27), and no F_RACE beside the fault (log 30). -/
def Obligations.RawAccessesFaultOrAccess : Prop :=
  ∀ (s : State) (a : Agent) (addr width : Nat) (v : Word), s.runs a 0 →
    let off : Int := (addr : Int) - (s.params.ccuBase : Int)
    ∀ x ∈ [runRequest (.rawRead addr width) s, runRequest (.rawWrite addr width v) s],
      (width ≠ 4 ∨ off % 4 ≠ 0 → s.raises x .access (.access off width)) ∧
      (width = 4 → off % 4 = 0 → off ∉ [0x90C, 0x940, 0x944, 0x96C] → s.raises x .unmapped (.offset off)) ∧
      ∀ r : Reg, width = 4 → addr = s.params.ccuBase + r.off →
        s.readsLast (runRequest (.rawRead addr width) s) a r ∧ s.writesLast (runRequest (.rawWrite addr width v) s) a r v

/-! ### The gating codec (41_gating_codec.md) -/

/-- The eight gating and reset transforms, for every index 0..15: the gate transforms clear or set bit I, the reset
transforms bit I+16, and every other bit is copied; no register, no event, no fault (R77 to R80, R83 to R86, R89). -/
def Obligations.GatingTransformsChangeOneBit : Prop :=
  ∀ x ∈ [(Instr.uartGateMask, false, 0, 0x10000000#32), (.uartGatePass, true, 0, 0x10000100#32),
      (.uartAssertReset, false, 16, 0x10000200#32), (.uartDeassertReset, true, 16, 0x10000300#32),
      (.spiGateMask, false, 0, 0x11000000#32), (.spiGatePass, true, 0, 0x11000100#32),
      (.spiAssertReset, false, 16, 0x11000200#32), (.spiDeassertReset, true, 16, 0x11000300#32)],
    ∀ (idx : BitVec 4),
      (∀ (nUart : Nat) (o : Operands), decode nUart (x.2.2.2 ||| idx.zeroExtend 32) o = .ok (x.1 idx o.v)) ∧
      ∀ (s : State) (a : Agent) (v : Word), s.runs a 0 →
        ∃ w, s.givesPure (exec (x.1 idx v) s) a (.word w) ∧
          ∀ k, k < 32 → w.getLsbD k = if k = idx.toNat + x.2.2.1 then x.2.1 else v.getLsbD k

/-- The four gating and reset getters give bit I or bit I+16 of the value, whatever it is (R81, R82, R87, R88; R81 marks
itself as derived from R14). -/
def Obligations.GatingGettersGiveTheBit : Prop :=
  ∀ x ∈ [(Instr.uartGateGet, 0, 0x10000400#32), (.uartResetGet, 16, 0x10000500#32),
      (.spiGateGet, 0, 0x11000400#32), (.spiResetGet, 16, 0x11000500#32)],
    ∀ (idx : BitVec 4),
      (∀ (nUart : Nat) (o : Operands), decode nUart (x.2.2 ||| idx.zeroExtend 32) o = .ok (x.1 idx o.v)) ∧
      ∀ (s : State) (a : Agent) (v : Word), s.runs a 0 →
        s.givesPure (exec (x.1 idx v) s) a (.bit (v.getLsbD (idx.toNat + x.2.1)))

/-- Two transforms commute when they touch different bits; on the same bit the outer one wins, which R90 marks as
derived. -/
def Obligations.TransformsOnDifferentBitsCommute : Prop :=
  ∀ x ∈ [(gateMask, false, 0), (gatePass, true, 0), (assertReset, false, 16), (deassertReset, true, 16)],
    ∀ y ∈ [(gateMask, false, 0), (gatePass, true, 0), (assertReset, false, 16), (deassertReset, true, 16)],
      ∀ (i j : BitVec 4) (v : Word),
        (i.toNat + x.2.2 ≠ j.toNat + y.2.2 → x.1 i (y.1 j v) = y.1 j (x.1 i v)) ∧
        (i.toNat + x.2.2 = j.toNat + y.2.2 → x.1 i (y.1 j v) = x.1 i v ∧
          (x.1 i (y.1 j v)).getLsbD (i.toNat + x.2.2) = x.2.1)

/-- A clear and a set of one bit leave the outer one's value there and every other bit as it was, so they restore the
original exactly when it had that value (R91, marked as derived there). -/
def Obligations.CompositionsLeaveTheOuterValue : Prop :=
  ∀ x ∈ [(deassertReset, assertReset, true, 16), (assertReset, deassertReset, false, 16), (gatePass, gateMask, true, 0),
      (gateMask, gatePass, false, 0)],
    ∀ (idx : BitVec 4) (v : Word),
      let w := x.1 idx (x.2.1 idx v)
      (∀ k, k < 32 → w.getLsbD k = if k = idx.toNat + x.2.2.2 then x.2.2.1 else v.getLsbD k) ∧
        (w = v ↔ v.getLsbD (idx.toNat + x.2.2.2) = x.2.2.1)

/-! ### The SPI clock codec (42_spiclk_codec.md) -/

/-- SOURCE_GET gives the source the table assigns to the code in bits [26:24], which has one for 0..4, whatever the
other bits are; an unassigned code raises F_DECODE_SRC with that code, gives no value and stops the agent (R92). -/
def Obligations.SourceGetDecodesOrFaults : Prop :=
  (∀ (nUart : Nat) (o : Operands), decode nUart 0x20000000 o = .ok (.spiclkSourceGet o.v)) ∧
  ∀ (s : State) (a : Agent) (v : Word), s.runs a 0 →
    let c := v.extractLsb' 24 3
    let x := exec (.spiclkSourceGet v) s
    (∀ src, decodeSrc c = some src → s.givesPure x a (.source src)) ∧ (c.toNat ≤ 4 → ∃ src, decodeSrc c = some src) ∧
    (5 ≤ c.toNat → s.raises x .decodeSrc (.source c))

/-- SOURCE_SET and N_SET put the code in their field and copy every other bit; the old field is not decoded (R93,
R95). -/
def Obligations.SourceAndNSettersSetTheirField : Prop :=
  (∀ (nUart : Nat) (v : Word) (src : SpiClockSource),
    decode nUart 0x20000100 { Operands.zero with v := v, src := (encodeSrc src).toNat } =
      .ok (.spiclkSourceSet v src)) ∧
  (∀ (nUart : Nat) (v : Word) (n : FactorN),
    decode nUart 0x20000300 { Operands.zero with v := v, n := (encodeN n).toNat } = .ok (.spiclkNSet v n)) ∧
  ∀ (s : State) (a : Agent) (v : Word), s.runs a 0 →
    (∀ src, ∃ w, s.givesPure (exec (.spiclkSourceSet v src) s) a (.word w) ∧ w.extractLsb' 24 3 = encodeSrc src ∧
      ∀ k, k < 32 → ¬(24 ≤ k ∧ k < 27) → w.getLsbD k = v.getLsbD k) ∧
    ∀ n, ∃ w, s.givesPure (exec (.spiclkNSet v n) s) a (.word w) ∧ w.extractLsb' 8 2 = encodeN n ∧
      ∀ k, k < 32 → ¬(8 ≤ k ∧ k < 10) → w.getLsbD k = v.getLsbD k

/-- N_GET gives the factor of the code in bits [9:8]; M_GET gives bits [3:0] (R94, R96). -/
def Obligations.NAndMGettersGiveTheirField : Prop :=
  (∀ (nUart : Nat) (o : Operands), decode nUart 0x20000200 o = .ok (.spiclkNGet o.v) ∧
    decode nUart 0x20000400 o = .ok (.spiclkMGet o.v)) ∧
  ∀ (s : State) (a : Agent) (v : Word), s.runs a 0 →
    (∀ n, v.extractLsb' 8 2 = encodeN n → s.givesPure (exec (.spiclkNGet v) s) a (.factorN n)) ∧
    (∃ n, v.extractLsb' 8 2 = encodeN n) ∧
    s.givesPure (exec (.spiclkMGet v) s) a (.factorM (v.extractLsb' 0 4))

/-- M_SET puts `m` in bits [3:0] and copies every other bit; m above 15 raises F_PRECOND_M with `m`, gives no value and
stops the agent (R97). -/
def Obligations.MSetterSetsItsFieldOrFaults : Prop :=
  (∀ (nUart : Nat) (o : Operands), decode nUart 0x20000500 o = .ok (.spiclkMSet o.v o.m)) ∧
  ∀ (s : State) (a : Agent) (v : Word) (m : Nat), s.runs a 0 →
    (m ≤ 15 → ∃ w, s.givesPure (exec (.spiclkMSet v m) s) a (.word w) ∧ (w.extractLsb' 0 4).toNat = m ∧
      ∀ k, k < 32 → ¬k < 4 → w.getLsbD k = v.getLsbD k) ∧
    (15 < m → s.raises (exec (.spiclkMSet v m) s) .precondM (.divider m))

/-- The three fields do not overlap: setters of different fields commute, a getter ignores the setters of the other
fields, and no setter changes an undefined bit (R98, marked as derived there). -/
def Obligations.ClockFieldsAreIndependent : Prop :=
  ∀ (v : Word) (src : SpiClockSource) (n : FactorN) (m : Nat), m ≤ 15 →
    sourceSet (nSet v n) src = nSet (sourceSet v src) n ∧ sourceSet (mSet v m) src = mSet (sourceSet v src) m ∧
    nSet (mSet v m) n = mSet (nSet v n) m ∧
    nGet (sourceSet v src) = nGet v ∧ nGet (mSet v m) = nGet v ∧ mGet (sourceSet v src) = mGet v ∧
    mGet (nSet v n) = mGet v ∧ sourceGet (nSet v n) = sourceGet v ∧ sourceGet (mSet v m) = sourceGet v ∧
    ∀ w ∈ [sourceSet v src, nSet v n, mSet v m], w &&& 0xF8FFFCF0 = v &&& 0xF8FFFCF0

/-- Getting what was set gives it back, and setting what was got changes nothing (R99, whose
second half is marked as derived there). -/
def Obligations.ClockFieldsRoundTrip : Prop :=
  ∀ v : Word,
    (∀ src, sourceGet (sourceSet v src) = some src) ∧ (∀ n, nGet (nSet v n) = n) ∧
    (∀ m, m ≤ 15 → (mGet (mSet v m)).toNat = m) ∧ (∀ src, sourceGet v = some src → sourceSet v src = v) ∧
    ((v.extractLsb' 24 3).toNat ≤ 4 → ∃ src, sourceGet v = some src) ∧ nSet v (nGet v) = v ∧ mSet v (mGet v).toNat = v

/-- The outcome of a codec operation is a function of its operands alone: the same in every state, whatever the
registers hold (R100; 41_gating_codec.md). -/
def Obligations.CodecIgnoresTheRegisters : Prop :=
  ∀ i : Instr, i.mnemonic ∈ Mnemonic.all.filter (fun k => k.pattern.extractLsb' 28 4 = 1 ∨ k.pattern.extractLsb' 28 4 = 2) →
    (∃ res, ∀ (s : State) (a : Agent), s.runs a 0 → s.givesPure (exec i s) a res) ∨
    ∃ code info, ∀ (s : State) (a : Agent), s.runs a 0 → s.raises (exec i s) code info

/-! ### The sequencer and the configurator (43_sequencer.md, 44_configurator.md) -/

/-- The four phases of a bring-up of either kind, for an index that exists: read; write the value read with gate masked
and reset asserted; read; write that with gate passed and reset deasserted, done. Each touches the kind's register
only, and F_RACE is the only fault; another agent's access meets an open window there from the first access until the
operation is done (R102, R103). -/
def Obligations.BringupPhases : Prop :=
  ∀ (s : State) (a : Agent) (k : Kind) (idx : BitVec 4), idx.toNat < instances s.params k →
    let x := exec (bringupOf k idx) s
    (∀ o, decode s.params.nUart ((if k = .uart then 0x30000000 else 0x31000000) ||| idx.zeroExtend 32) o =
      .ok (bringupOf k idx)) ∧
    (∀ (b : Agent) (d : Word) (o : Operands), b.op = .op d o → decode s.params.nUart d o = .ok (bringupOf k idx) →
      b.done = false → 0 < b.ph → b.window s.params.nUart = some (bgr k)) ∧
    (s.runs a 0 → s.readsOn x (bgr k) 1) ∧
    (s.runs a 1 → ∃ w, heldBits idx a.tmp w ∧ s.writesOn x a (bgr k) w 2) ∧
    (s.runs a 2 → s.readsOn x (bgr k) 3) ∧
    (s.runs a 3 → ∃ w, runningBits idx a.tmp w ∧ s.writesLast x a (bgr k) w)

/-- The two phases of a power-down of either kind, for an index that exists: read; write the value read with gate
masked and reset asserted, done; its window is on the kind's register (R104, R105). -/
def Obligations.PowerdownPhases : Prop :=
  ∀ (s : State) (a : Agent) (k : Kind) (idx : BitVec 4), idx.toNat < instances s.params k →
    let x := exec (powerdownOf k idx) s
    (∀ o, decode s.params.nUart ((if k = .uart then 0x30000100 else 0x31000100) ||| idx.zeroExtend 32) o =
      .ok (powerdownOf k idx)) ∧
    (∀ (b : Agent) (d : Word) (o : Operands), b.op = .op d o → decode s.params.nUart d o = .ok (powerdownOf k idx) →
      b.done = false → 0 < b.ph → b.window s.params.nUart = some (bgr k)) ∧
    (s.runs a 0 → s.readsOn x (bgr k) 1) ∧
    (s.runs a 1 → ∃ w, heldBits idx a.tmp w ∧ s.writesLast x a (bgr k) w)

/-- The two phases of a configure, for an index that exists: read `spi_clk[I]`; write the value read with the three
fields set and every other bit copied, done. A divider above 15 raises F_PRECOND_M before the read. Its window is on that
register (R111, R112). -/
def Obligations.ConfigurePhases : Prop :=
  ∀ (s : State) (a : Agent) (idx : BitVec 4) (src : SpiClockSource) (m : Nat) (n : FactorN), idx.toNat < 2 →
    let x := exec (.spiConfigure idx src m n) s
    let r := if idx = 0 then Reg.spiClk0 else Reg.spiClk1
    r.off = 0x940 + 4 * idx.toNat ∧
    decode s.params.nUart (0x41000000 ||| idx.zeroExtend 32)
      { v := 0, src := (encodeSrc src).toNat, m := m, n := (encodeN n).toNat } = .ok (.spiConfigure idx src m n) ∧
    (∀ (b : Agent) (d : Word) (o : Operands), b.op = .op d o → decode s.params.nUart d o = .ok (.spiConfigure idx src m n) →
      b.done = false → 0 < b.ph → b.window s.params.nUart = some r) ∧
    (s.runs a 0 → 15 < m → s.raises x .precondM (.divider m)) ∧
    (s.runs a 0 → m ≤ 15 → s.readsOn x r 1) ∧
    (s.runs a 1 → m ≤ 15 → ∃ w, w.extractLsb' 24 3 = encodeSrc src ∧ w.extractLsb' 8 2 = encodeN n ∧
      (w.extractLsb' 0 4).toNat = m ∧ (∀ j, j < 32 → ¬(j < 4 ∨ 8 ≤ j ∧ j < 10 ∨ 24 ≤ j ∧ j < 27) →
        w.getLsbD j = a.tmp.getLsbD j) ∧ s.writesLast x a r w)

/-- `exec` of a sequencer or configurator operation with an index out of range for its kind is refused. This second check
is the model's choice (log 18): the check that R63 and R101 give stands in the decoder (DecoderGivesOneAnswer). -/
def Obligations.IndexOutOfRangeIsRefused : Prop :=
  ∀ (s : State) (idx : BitVec 4),
    (∀ k : Kind, instances s.params k ≤ idx.toNat →
      exec (bringupOf k idx) s = .refused (.rejected .index) ∧
        exec (powerdownOf k idx) s = .refused (.rejected .index)) ∧
    ∀ (src : SpiClockSource) (m : Nat) (n : FactorN), 2 ≤ idx.toNat →
      exec (.spiConfigure idx src m n) s = .refused (.rejected .index)

/-- The end state of a sequencer operation of which no other agent accessed the register, in any run: after a bring-up
the instance's gate and reset bit are 1, after a power-down 0, and every other defined bit of the register is what it
was before (R107, marked as derived there). -/
def Obligations.SequencerEndState : Prop :=
  ∀ (steps : Nat) (s t : State) (h : List Event) (k : Kind) (idx : BitVec 4) (id : Nat),
    s.params.externalMutation = false → s.idsDistinct → idx.toNat < instances s.params k →
    Host.Core.run Sys2Proof.core steps s = .next t → t.history = s.history ++ h →
    (∀ e ∈ h, e.off = (bgr k).off → e.agent = id) → t.finished id →
    (s.starts id (bringupOf k idx) →
      (t.reg (bgr k)).getLsbD idx.toNat = true ∧ (t.reg (bgr k)).getLsbD (idx.toNat + 16) = true ∧
      ∀ j, ((bgr k).definedMask s.params.nUart).getLsbD j = true → j ≠ idx.toNat → j ≠ idx.toNat + 16 →
        (t.reg (bgr k)).getLsbD j = (s.reg (bgr k)).getLsbD j) ∧
    (s.starts id (powerdownOf k idx) →
      (t.reg (bgr k)).getLsbD idx.toNat = false ∧ (t.reg (bgr k)).getLsbD (idx.toNat + 16) = false ∧
      ∀ j, ((bgr k).definedMask s.params.nUart).getLsbD j = true → j ≠ idx.toNat → j ≠ idx.toNat + 16 →
        (t.reg (bgr k)).getLsbD j = (s.reg (bgr k)).getLsbD j)

/-- The events of a sequencer operation in any run, whatever other agents do: a bring-up contributes R, W, R, W and a
power-down R, W, all on the kind's register; a write differs from the value just read in the instance's two bits only,
cleared first and set last (R106, R108, R109; the first and last are marked as derived there). -/
def Obligations.SequencerEvents : Prop :=
  ∀ (steps : Nat) (s t : State) (h : List Event) (k : Kind) (idx : BitVec 4) (id : Nat),
    s.idsDistinct → idx.toNat < instances s.params k →
    Host.Core.run Sys2Proof.core steps s = .next t → t.history = s.history ++ h → t.finished id →
    (s.starts id (bringupOf k idx) → ∃ v0 w0 v1 w1, heldBits idx v0 w0 ∧ runningBits idx v1 w1 ∧
      h.filter (fun e => e.agent == id) =
        [{ agent := id, dir := .read, off := (bgr k).off, value := v0 },
         { agent := id, dir := .write, off := (bgr k).off, value := w0 },
         { agent := id, dir := .read, off := (bgr k).off, value := v1 },
         { agent := id, dir := .write, off := (bgr k).off, value := w1 }]) ∧
    (s.starts id (powerdownOf k idx) → ∃ v0 w0, heldBits idx v0 w0 ∧
      h.filter (fun e => e.agent == id) =
        [{ agent := id, dir := .read, off := (bgr k).off, value := v0 },
         { agent := id, dir := .write, off := (bgr k).off, value := w0 }])

/-- The events of a configure that does not fault, in any run, whatever other agents do: R, then one W on
0x940 + 4*I, with the three fields set and every other bit equal to the value read (R113, marked as derived there). -/
def Obligations.ConfigureEvents : Prop :=
  ∀ (steps : Nat) (s t : State) (h : List Event) (idx : BitVec 4) (src : SpiClockSource) (m : Nat) (n : FactorN) (id : Nat),
    s.idsDistinct → s.starts id (.spiConfigure idx src m n) →
    Host.Core.run Sys2Proof.core steps s = .next t → t.history = s.history ++ h → t.finished id →
    m ≤ 15 ∧ ∃ v w, w.extractLsb' 24 3 = encodeSrc src ∧ w.extractLsb' 8 2 = encodeN n ∧
      (w.extractLsb' 0 4).toNat = m ∧
      (∀ j, j < 32 → ¬(j < 4 ∨ 8 ≤ j ∧ j < 10 ∨ 24 ≤ j ∧ j < 27) → w.getLsbD j = v.getLsbD j) ∧
      h.filter (fun e => e.agent == id) =
        [{ agent := id, dir := .read, off := 0x940 + 4 * idx.toNat, value := v },
         { agent := id, dir := .write, off := 0x940 + 4 * idx.toNat, value := w }]

/-- A multi-access operation that has the turn as often as it has phases runs to its end: a bring-up in four turns and
leaves its instance running, a power-down in two and leaves it held in reset, a configure with a legal divider in two
(R145; R110, which marks that it starts from every state as derived). The schedule is the model's own field (log 5). -/
def Obligations.OperationsFinishInTheirPhases : Prop :=
  ∀ (s : State) (id : Nat) (l : List Nat) (idx : BitVec 4), s.Inv →
    (∀ k : Kind, idx.toNat < instances s.params k → s.starts id (bringupOf k idx) →
      s.sched = id :: id :: id :: id :: l →
      ∃ t, Host.Core.run Sys2Proof.core 4 s = .next t ∧ t.finished id ∧ t.logicalState k idx = .running) ∧
    (∀ k : Kind, idx.toNat < instances s.params k → s.starts id (powerdownOf k idx) → s.sched = id :: id :: l →
      ∃ t, Host.Core.run Sys2Proof.core 2 s = .next t ∧ t.finished id ∧ t.logicalState k idx = .heldInReset) ∧
    ∀ (src : SpiClockSource) (m : Nat) (n : FactorN), m ≤ 15 → s.starts id (.spiConfigure idx src m n) →
      s.sched = id :: id :: l →
      ∃ t, Host.Core.run Sys2Proof.core 2 s = .next t ∧ t.finished id ∧ ∀ k j, t.logicalState k j = s.logicalState k j

/-- The logical state of the instance over a sequencer operation's writes, and of every instance over a configure (R110).
The logical state of an index that is no instance is the model's choice (log 28). -/
def Obligations.LogicalStatesOfTheOperations : Prop :=
  ∀ (s t : State) (a : Agent) (k : Kind) (idx : BitVec 4),
    (s.runs a 1 → exec (bringupOf k idx) s = .next t → t.logicalState k idx = .heldInReset) ∧
    (s.runs a 3 → exec (bringupOf k idx) s = .next t → t.logicalState k idx = .running) ∧
    (s.runs a 1 → exec (powerdownOf k idx) s = .next t → t.logicalState k idx = .heldInReset) ∧
    ∀ src m n, exec (.spiConfigure idx src m n) s = .next t → ∀ k j, t.logicalState k j = s.logicalState k j

/-- The hand-built bring-up of 95_test_vectors.md P5, a program of bus and codec operations, leaves the register and the
bus events that the bring-up operation leaves (R66), for every UART instance and every start value, under
UNDEF_BITS = storage and with one agent. The values between its operations are constants of the program (log 26). -/
def Obligations.HandBuiltBringupEqualsTheSequencer : Prop :=
  ∀ (p : Params) (v : ResetValues) (idx : BitVec 4),
    p.undefBits = .storage → p.externalMutation = false → idx.toNat < p.nUart →
    let v0 := v.uartBgr
    let v1 := gateMask idx v0
    let v2 := assertReset idx v1
    let v4 := gatePass idx v2
    let v5 := deassertReset idx v4
    let s := State.resetWith p v
    ∃ byHand atOnce t u,
      s.submit [(encode .rdUartBgr, [encode (.uartGateMask idx v0), encode (.uartAssertReset idx v1),
        encode (.wrUartBgr v2), encode .rdUartBgr, encode (.uartGatePass idx v2), encode (.uartDeassertReset idx v4),
        encode (.wrUartBgr v5)])] = .ok byHand ∧
      s.submit [(encode (.uartBringup idx), [])] = .ok atOnce ∧
      Host.Core.run Sys2Proof.core 8 byHand = .next t ∧ Host.Core.run Sys2Proof.core 4 atOnce = .next u ∧
      t.uartBgr = u.uartBgr ∧ t.history = u.history ∧ t.uartBgr = v5 ∧
      t.completed.map (fun c => c.result) =
        [.word v0, .word v1, .word v2, .unit, .word v2, .word v4, .word v5, .unit]

/-! ### Races (20_memory.md) -/

/-- The window of an agent: a multi-access operation has one on its register after its first access and until its last
completes; a single-access operation never has one (R44). -/
def Obligations.WindowsOfOperations : Prop :=
  ∀ (nUart : Nat) (a : Agent) (r : Reg),
    a.window nUart = some r ↔ a.done = false ∧ 0 < a.ph ∧ ∃ d o i, a.op = .op d o ∧ decode nUart d o = .ok i ∧
      ((∃ idx, i = .uartBringup idx ∨ i = .uartPowerdown idx) ∧ r = .uartBgr ∨
       (∃ idx, i = .spiBringup idx ∨ i = .spiPowerdown idx) ∧ r = .spiBgr ∨
       (∃ src m n, i = .spiConfigure 0 src m n) ∧ r = .spiClk0 ∨
       (∃ src m n, i = .spiConfigure 1 src m n) ∧ r = .spiClk1)

/-- Every access of a step inside another agent's window on the register records F_RACE against the accessing agent,
and no step records F_RACE otherwise (R44, R117). That an access which faults, and so leaves no event, records none is the
model's choice (log 30). -/
def Obligations.RacesAreRecorded : Prop :=
  ∀ s u t : State, s.nextTurn = some u → step s = .next t →
    (∀ e, t.history = s.history ++ [e] → ∀ b ∈ u.agents, b.id ≠ u.turn →
      (∃ r : Reg, r.off = e.off ∧ b.window u.params.nUart = some r) →
      { code := .race, agent := u.turn, info := .race b.id e.off } ∈ t.faults) ∧
    ∀ f ∈ t.faults, f ∉ s.faults → f.code = .race → ∃ e b r, t.history = s.history ++ [e] ∧ b ∈ u.agents ∧
      b.id ≠ u.turn ∧ r = e.off ∧ (∃ q : Reg, q.off = r ∧ b.window u.params.nUart = some q) ∧
      f = { code := .race, agent := u.turn, info := .race b.id r }

/-- The two-agent race of 95_test_vectors.md P3 (R45), for every start value of the register and every pair of
instances: the first bring-up's bits are lost, and FAULTS holds the two F_RACE records, one against each. The schedule,
the agents' numbers and the order of the records are those of the model's own fields (log 5, 4, 14). -/
def Obligations.RaceLosesAnUpdate : Prop :=
  ∀ (p : Params) (v : ResetValues) (i j : BitVec 4),
    p.undefBits = .storage → p.externalMutation = false → i.toNat < p.nUart → j.toNat < p.nUart → i ≠ j →
    ∃ s t, (State.resetWith p v).submit [(encode (.uartBringup i), []), (encode (.uartBringup j), [])] = .ok s ∧
      Host.Core.run Sys2Proof.core 8 { s with sched := [0, 0, 0, 1, 1, 1, 0, 1] } = .next t ∧ t.finished 0 ∧ t.finished 1 ∧
      t.uartBgr = letRun j (holdInReset j (holdInReset i v.uartBgr)) ∧
      t.logicalState .uart i = .heldInReset ∧ t.logicalState .uart j = .running ∧
      t.faults = [{ code := .race, agent := 1, info := .race 0 0x90C }, { code := .race, agent := 0, info := .race 1 0x90C }]

/-! ### Faults and refusals (60_exceptions.md) -/

/-- FAULTS is empty at reset, a step only adds to it, and a state with a fault is never final (R25). Nothing here rests on
which fault-free states are final, which the model chose (log 29). -/
def Obligations.FaultsOnlyGrow : Prop :=
  (∀ (p : Params) (v : ResetValues), (State.resetWith p v).faults = []) ∧
  (∀ s t : State, step s = .next t → ∀ f ∈ s.faults, f ∈ t.faults) ∧
  ∀ s : State, s.faults ≠ [] → ¬s.final

/-- A stopped agent takes no further step: no step changes its record (R115, R124). -/
def Obligations.StoppedAgentsStayStopped : Prop :=
  ∀ s t : State, s.idsDistinct → step s = .next t → ∀ a ∈ s.agents, a.stopped = true → a ∈ t.agents

/-- A step that records a fault other than F_RACE makes no access and changes no register, and its agent is stopped
(R115, R123). -/
def Obligations.FaultsArePrecise : Prop :=
  ∀ s t : State, step s = .next t → ∀ f ∈ t.faults, f ∉ s.faults → f.code ≠ .race →
    s.keepsRegisters t ∧ t.history = s.history ∧ t.completed = s.completed ∧
      (∃ a ∈ t.agents, a.id = f.agent) ∧ ∀ a ∈ t.agents, a.id = f.agent → a.stopped = true

/-- A program that holds a refused operation, of whichever of its agents, is refused as a whole with the refusal of one
of its operations: no agent is created, since the answer has no state. A program that holds none gets an agent at phase
0 for each of its lists of operations, under numbers no agent has, and nothing else changes (R121, R27). That a program is
the lists submitted together and is judged as it is submitted is the model's reading (log 10). -/
def Obligations.RefusedProgramsHaveNoRun : Prop :=
  ∀ (s : State) (p : Program),
    let refusedWith := fun e : Rejection => ∃ x ∈ p, ∃ d o, Request.op d o ∈ x.1 :: x.2 ∧ decode s.params.nUart d o = .error e
    ((∃ e, refusedWith e) → ∃ e, s.submit p = .error e ∧ refusedWith e) ∧
    ((¬∃ e, refusedWith e) → ∃ t, s.submit p = .ok t ∧ s.keepsControl t ∧ s.keepsRegisters t ∧ t.faults = s.faults ∧
      t.history = s.history ∧ t.completed = s.completed ∧ t.drawn = s.drawn ∧
      ∃ new, t.agents = s.agents ++ new ∧ new.map (fun a => (a.op, a.rest)) = p ∧
        (∀ a ∈ new, a.ph = 0 ∧ a.done = false ∧ a.stopped = false ∧ ∀ b ∈ s.agents, b.id ≠ a.id) ∧
        (new.map fun a => a.id).Nodup) ∧
    ∀ w, w < 2 ^ 32 → (∃ e, decode s.params.nUart (BitVec.ofNat 32 w) .zero = .error e) → s.withFetchWord 32 w = s

/-! ### Steps, runs and invariants -/

/-- A step runs the decoded operation: the schedule's first agent, if it can move, begins its next step and has the
turn; if the operation it has in flight decodes, the step is `exec` of that operation there. R27 and R40 say that a step is
one phase step of one agent. They do not say whose: that the first agent of State.sched that can move gets the turn is the
model's choice (DESIGN CHOICE, log 5), and so is how an agent begins the next operation of its program (log 4). -/
def Obligations.StepRunsTheDecodedOperation : Prop :=
  ∀ (s : State) (id : Nat) (l : List Nat) (a b : Agent) (d : Word) (o : Operands) (i : Instr),
    s.idsDistinct → s.sched = id :: l → s.agent id = some a → a.begin = some b → b.op = .op d o →
    decode s.params.nUart d o = .ok i →
    ∃ u, u.current = some b ∧ u.turn = id ∧ u.sched = l ∧ s.keepsRegisters u ∧ u.params = s.params ∧
      u.history = s.history ∧ u.faults = s.faults ∧ u.completed = s.completed ∧ u.drawn = s.drawn ∧
      u.picked = s.picked ∧ u.agents = s.agents.map (fun c => if c.id = id then b else c) ∧ step s = exec i u

/-- What the host's `withFetchWord` places is the operation the next step runs, as a new agent at phase 0, with the
registers, FAULTS and history as they were. The load itself (log 9) and the schedule that gives the new agent the turn
(log 5) are the model's choice. -/
def Obligations.FetchedWordRunsNext : Prop :=
  ∀ (s : State) (w : Nat) (i : Instr), w < 2 ^ 32 → decode s.params.nUart (BitVec.ofNat 32 w) .zero = .ok i →
    ∃ u a, u.runs a 0 ∧ s.keepsRegisters u ∧ u.params = s.params ∧ u.faults = s.faults ∧ u.history = s.history ∧
      step (s.withFetchWord 32 w) = exec i u

/-- Every step keeps the invariant: admitted parameters, distinct agents, a fault set without repeats, phase counters that
name phases of their operations, and no agent with a refused operation (R7, R25, R27, R121). -/
def Obligations.EveryStepKeepsTheInvariant : Prop := ∀ s t : State, s.Inv → step s = .next t → t.Inv

/-- The state after reset has the invariant for all admitted parameters; so has a state that has it after a program was
submitted. The rules cited give the empty FAULTS and agents of reset and the refusal of a program. The model's own: that
State.reset has it rests on its PRESUMED parameters (log 1), and the submit clause on the numbers and the program the
model gives an agent (log 4, 10). -/
def Obligations.ResetAndSubmitHaveTheInvariant : Prop :=
  (∀ (p : Params) (v : ResetValues), p.wf = true → (State.resetWith p v).Inv) ∧ State.reset.Inv ∧
  ∀ (s t : State) (p : Program), s.Inv → s.submit p = .ok t → t.Inv

/-- From a state with the invariant every run of any length leads to a next state: a fault of the spec is a record in
FAULTS and the machine goes on (R115, R123), and no agent has a refused operation that could end it (R121). -/
def Obligations.RunsNeverStopByThemselves : Prop :=
  ∀ (steps : Nat) (s : State), s.Inv → ∃ t, Host.Core.run Sys2Proof.core steps s = .next t ∧ t.Inv

/-- Defined bits are storage (R19): in every run the registers hold what the most recent write gave them, or what they
held at reset; a read's value has the stored bit in every defined bit; with EXTERNAL_MUTATION it is a draw. -/
def Obligations.RegistersHoldTheLastWrite : Prop :=
  (∀ (p : Params) (v : ResetValues) (r : Reg),
    (State.resetWith p v).reg r = lastWritten (State.resetWith p v).history r ((State.resetWith p v).reg r)) ∧
  (∀ (s t : State) (before : Reg → Word), (∀ r, s.reg r = lastWritten s.history r (before r)) → step s = .next t →
    ∀ r, t.reg r = lastWritten t.history r (before r)) ∧
  ∀ (s t : State) (e : Event) (r : Reg), step s = .next t → t.history = s.history ++ [e] → e.dir = .read →
    e.off = r.off →
    (s.params.externalMutation = false → ∀ k, (r.definedMask s.params.nUart).getLsbD k = true →
      e.value.getLsbD k = (s.reg r).getLsbD k) ∧
    (s.params.externalMutation = true → e.value = Config.draw s.drawn)

/-- A step makes at most one bus access, by the agent that has the turn, on a register; only a write changes a
register, and it changes that one to the value written (R27, R40, R48). -/
def Obligations.OneAccessPerStep : Prop :=
  ∀ s t : State, step s = .next t →
    (t.history = s.history ∧ ∀ r, t.reg r = s.reg r) ∨
    ∃ (e : Event) (r : Reg), t.history = s.history ++ [e] ∧ e.agent = t.turn ∧ e.off = r.off ∧
      (e.dir = .read → ∀ q, t.reg q = s.reg q) ∧
      (e.dir = .write → t.reg r = e.value ∧ ∀ q, q ≠ r → t.reg q = s.reg q)

/-- A step changes no agent's record but that of the agent that has the turn, creates and removes none, and never
changes the parameters (R9, R27, R127). -/
def Obligations.OtherAgentsAreUntouched : Prop :=
  ∀ s t : State, step s = .next t →
    t.params = s.params ∧ t.agents.map (fun a => a.id) = s.agents.map (fun a => a.id) ∧
      t.agents.filter (fun a => a.id != t.turn) = s.agents.filter (fun a => a.id != t.turn)

/-- Every turn makes progress: after it the agent is stopped, or its operation is done, or it is one phase further on
(R27, R145). -/
def Obligations.EveryTurnMakesProgress : Prop :=
  ∀ (s u t : State) (a : Agent), s.Inv → s.nextTurn = some u → u.current = some a → step s = .next t →
    ∃ b, t.agent a.id = some b ∧ b.op = a.op ∧ b.rest = a.rest ∧
      (b.stopped = true ∨ b.done = true ∨ b.ph = a.ph + 1)
end

