-- ==== Sys2Proof/Laws/State.lean ====
section
/-! SUPPORT. One lemma per field per update of State, so that no later proof unfolds a record update. -/

namespace Sys2Proof.Machine

open Sys2Proof

@[simp] theorem State.setReg_params (s : State) (r : Reg) (v : Word) :
    (s.setReg r v).params = s.params := by cases r <;> rfl

@[simp] theorem State.setReg_faults (s : State) (r : Reg) (v : Word) :
    (s.setReg r v).faults = s.faults := by cases r <;> rfl

@[simp] theorem State.setReg_agents (s : State) (r : Reg) (v : Word) :
    (s.setReg r v).agents = s.agents := by cases r <;> rfl

@[simp] theorem State.setReg_history (s : State) (r : Reg) (v : Word) :
    (s.setReg r v).history = s.history := by cases r <;> rfl

@[simp] theorem State.setReg_completed (s : State) (r : Reg) (v : Word) :
    (s.setReg r v).completed = s.completed := by cases r <;> rfl

@[simp] theorem State.setReg_sched (s : State) (r : Reg) (v : Word) :
    (s.setReg r v).sched = s.sched := by cases r <;> rfl

@[simp] theorem State.setReg_turn (s : State) (r : Reg) (v : Word) :
    (s.setReg r v).turn = s.turn := by cases r <;> rfl

@[simp] theorem State.setReg_drawn (s : State) (r : Reg) (v : Word) :
    (s.setReg r v).drawn = s.drawn := by cases r <;> rfl

@[simp] theorem State.setReg_picked (s : State) (r : Reg) (v : Word) :
    (s.setReg r v).picked = s.picked := by cases r <;> rfl

@[simp] theorem State.setReg_reg_same (s : State) (r : Reg) (v : Word) : (s.setReg r v).reg r = v := by
  cases r <;> rfl

theorem State.setReg_reg_other (s : State) (r q : Reg) (v : Word) (h : q ≠ r) : (s.setReg r v).reg q = s.reg q := by
  cases r <;> cases q <;> first | rfl | exact absurd rfl h

@[simp] theorem State.updTurn_params (s : State) (f : Agent → Agent) : (s.updTurn f).params = s.params := rfl

@[simp] theorem State.updTurn_faults (s : State) (f : Agent → Agent) : (s.updTurn f).faults = s.faults := rfl

@[simp] theorem State.updTurn_agents (s : State) (f : Agent → Agent) :
    (s.updTurn f).agents = s.agents.map fun a => if a.id = s.turn then f a else a := rfl

@[simp] theorem State.updTurn_history (s : State) (f : Agent → Agent) : (s.updTurn f).history = s.history := rfl

@[simp] theorem State.updTurn_completed (s : State) (f : Agent → Agent) : (s.updTurn f).completed = s.completed := rfl

@[simp] theorem State.updTurn_sched (s : State) (f : Agent → Agent) : (s.updTurn f).sched = s.sched := rfl

@[simp] theorem State.updTurn_turn (s : State) (f : Agent → Agent) : (s.updTurn f).turn = s.turn := rfl

@[simp] theorem State.updTurn_drawn (s : State) (f : Agent → Agent) : (s.updTurn f).drawn = s.drawn := rfl

@[simp] theorem State.updTurn_picked (s : State) (f : Agent → Agent) : (s.updTurn f).picked = s.picked := rfl

@[simp] theorem State.updTurn_reg (s : State) (f : Agent → Agent) (q : Reg) : (s.updTurn f).reg q = s.reg q := by
  cases q <;> rfl

@[simp] theorem State.afterRead_params (s : State) (r : Reg) : (s.afterRead r).params = s.params := rfl

@[simp] theorem State.afterRead_faults (s : State) (r : Reg) : (s.afterRead r).faults = s.faultsAfter r := rfl

@[simp] theorem State.afterRead_agents (s : State) (r : Reg) : (s.afterRead r).agents = s.agents := rfl

@[simp] theorem State.afterRead_history (s : State) (r : Reg) :
    (s.afterRead r).history = s.history ++ [{ agent := s.turn, dir := .read, off := r.off, value := s.readValue r }] := rfl

@[simp] theorem State.afterRead_completed (s : State) (r : Reg) : (s.afterRead r).completed = s.completed := rfl

@[simp] theorem State.afterRead_sched (s : State) (r : Reg) : (s.afterRead r).sched = s.sched := rfl

@[simp] theorem State.afterRead_turn (s : State) (r : Reg) : (s.afterRead r).turn = s.turn := rfl

@[simp] theorem State.afterRead_drawn (s : State) (r : Reg) : (s.afterRead r).drawn = s.drawn + 1 := rfl

@[simp] theorem State.afterRead_picked (s : State) (r : Reg) : (s.afterRead r).picked = s.picked := rfl

@[simp] theorem State.afterRead_reg (s : State) (r : Reg) (q : Reg) : (s.afterRead r).reg q = s.reg q := by
  cases q <;> rfl

@[simp] theorem State.afterWrite_params (s : State) (r : Reg) (v : Word) :
    (s.afterWrite r v).params = s.params := by cases r <;> rfl

@[simp] theorem State.afterWrite_faults (s : State) (r : Reg) (v : Word) :
    (s.afterWrite r v).faults = s.faultsAfter r := rfl

@[simp] theorem State.afterWrite_agents (s : State) (r : Reg) (v : Word) :
    (s.afterWrite r v).agents = s.agents := by cases r <;> rfl

@[simp] theorem State.afterWrite_history (s : State) (r : Reg) (v : Word) :
    (s.afterWrite r v).history = s.history ++ [{ agent := s.turn, dir := .write, off := r.off, value := v }] := rfl

@[simp] theorem State.afterWrite_completed (s : State) (r : Reg) (v : Word) :
    (s.afterWrite r v).completed = s.completed := by cases r <;> rfl

@[simp] theorem State.afterWrite_sched (s : State) (r : Reg) (v : Word) :
    (s.afterWrite r v).sched = s.sched := by cases r <;> rfl

@[simp] theorem State.afterWrite_turn (s : State) (r : Reg) (v : Word) :
    (s.afterWrite r v).turn = s.turn := by cases r <;> rfl

@[simp] theorem State.afterWrite_drawn (s : State) (r : Reg) (v : Word) :
    (s.afterWrite r v).drawn = s.drawn := by cases r <;> rfl

@[simp] theorem State.afterWrite_picked (s : State) (r : Reg) (v : Word) :
    (s.afterWrite r v).picked = s.picked := by cases r <;> rfl

@[simp] theorem State.afterWrite_reg_same (s : State) (r : Reg) (v : Word) : (s.afterWrite r v).reg r = v := by
  cases r <;> rfl

theorem State.afterWrite_reg_other (s : State) (r q : Reg) (v : Word) (h : q ≠ r) :
    (s.afterWrite r v).reg q = s.reg q := by
  cases r <;> cases q <;> first | rfl | exact absurd rfl h

@[simp] theorem State.raise_params (s : State) (c : FaultCode) (x : FaultInfo) :
    (s.raise c x).params = s.params := rfl

@[simp] theorem State.raise_faults (s : State) (c : FaultCode) (x : FaultInfo) :
    (s.raise c x).faults = addFault s.faults { code := c, agent := s.turn, info := x } := rfl

@[simp] theorem State.raise_agents (s : State) (c : FaultCode) (x : FaultInfo) :
    (s.raise c x).agents = s.agents.map fun a => if a.id = s.turn then { a with stopped := true } else a := rfl

@[simp] theorem State.raise_history (s : State) (c : FaultCode) (x : FaultInfo) :
    (s.raise c x).history = s.history := rfl

@[simp] theorem State.raise_completed (s : State) (c : FaultCode) (x : FaultInfo) :
    (s.raise c x).completed = s.completed := rfl

@[simp] theorem State.raise_sched (s : State) (c : FaultCode) (x : FaultInfo) : (s.raise c x).sched = s.sched := rfl

@[simp] theorem State.raise_turn (s : State) (c : FaultCode) (x : FaultInfo) : (s.raise c x).turn = s.turn := rfl

@[simp] theorem State.raise_drawn (s : State) (c : FaultCode) (x : FaultInfo) : (s.raise c x).drawn = s.drawn := rfl

@[simp] theorem State.raise_picked (s : State) (c : FaultCode) (x : FaultInfo) :
    (s.raise c x).picked = s.picked := rfl

@[simp] theorem State.raise_reg (s : State) (c : FaultCode) (x : FaultInfo) (q : Reg) : (s.raise c x).reg q = s.reg q := by
  cases q <;> rfl

@[simp] theorem State.advance_params (s : State) (v : Word) (k : Nat) : (s.advance v k).params = s.params := rfl

@[simp] theorem State.advance_faults (s : State) (v : Word) (k : Nat) : (s.advance v k).faults = s.faults := rfl

@[simp] theorem State.advance_agents (s : State) (v : Word) (k : Nat) :
    (s.advance v k).agents = s.agents.map fun a => if a.id = s.turn then { a with tmp := v, ph := k } else a := rfl

@[simp] theorem State.advance_history (s : State) (v : Word) (k : Nat) : (s.advance v k).history = s.history := rfl

@[simp] theorem State.advance_completed (s : State) (v : Word) (k : Nat) :
    (s.advance v k).completed = s.completed := rfl

@[simp] theorem State.advance_sched (s : State) (v : Word) (k : Nat) : (s.advance v k).sched = s.sched := rfl

@[simp] theorem State.advance_turn (s : State) (v : Word) (k : Nat) : (s.advance v k).turn = s.turn := rfl

@[simp] theorem State.advance_drawn (s : State) (v : Word) (k : Nat) : (s.advance v k).drawn = s.drawn := rfl

@[simp] theorem State.advance_picked (s : State) (v : Word) (k : Nat) : (s.advance v k).picked = s.picked := rfl

@[simp] theorem State.advance_reg (s : State) (v : Word) (k : Nat) (q : Reg) : (s.advance v k).reg q = s.reg q := by
  cases q <;> rfl

@[simp] theorem State.finish_params (s : State) (op : Request) (res : Result) :
    (s.finish op res).params = s.params := rfl

@[simp] theorem State.finish_faults (s : State) (op : Request) (res : Result) :
    (s.finish op res).faults = s.faults := rfl

@[simp] theorem State.finish_agents (s : State) (op : Request) (res : Result) :
    (s.finish op res).agents = s.agents.map fun a => if a.id = s.turn then { a with done := true } else a := rfl

@[simp] theorem State.finish_history (s : State) (op : Request) (res : Result) :
    (s.finish op res).history = s.history := rfl

@[simp] theorem State.finish_completed (s : State) (op : Request) (res : Result) :
    (s.finish op res).completed = s.completed ++ [{ agent := s.turn, op := op, result := res }] := rfl

@[simp] theorem State.finish_sched (s : State) (op : Request) (res : Result) :
    (s.finish op res).sched = s.sched := rfl

@[simp] theorem State.finish_turn (s : State) (op : Request) (res : Result) : (s.finish op res).turn = s.turn := rfl

@[simp] theorem State.finish_drawn (s : State) (op : Request) (res : Result) :
    (s.finish op res).drawn = s.drawn := rfl

@[simp] theorem State.finish_picked (s : State) (op : Request) (res : Result) :
    (s.finish op res).picked = s.picked := rfl

@[simp] theorem State.finish_reg (s : State) (op : Request) (res : Result) (q : Reg) : (s.finish op res).reg q = s.reg q := by
  cases q <;> rfl

@[simp] theorem State.giveTurn_params (s : State) (a : Agent) (l : List Nat) :
    (s.giveTurn a l).params = s.params := rfl

@[simp] theorem State.giveTurn_faults (s : State) (a : Agent) (l : List Nat) :
    (s.giveTurn a l).faults = s.faults := rfl

@[simp] theorem State.giveTurn_agents (s : State) (a : Agent) (l : List Nat) :
    (s.giveTurn a l).agents = s.agents.map fun b => if b.id = a.id then a else b := rfl

@[simp] theorem State.giveTurn_history (s : State) (a : Agent) (l : List Nat) :
    (s.giveTurn a l).history = s.history := rfl

@[simp] theorem State.giveTurn_completed (s : State) (a : Agent) (l : List Nat) :
    (s.giveTurn a l).completed = s.completed := rfl

@[simp] theorem State.giveTurn_sched (s : State) (a : Agent) (l : List Nat) : (s.giveTurn a l).sched = l := rfl

@[simp] theorem State.giveTurn_turn (s : State) (a : Agent) (l : List Nat) : (s.giveTurn a l).turn = a.id := rfl

@[simp] theorem State.giveTurn_drawn (s : State) (a : Agent) (l : List Nat) : (s.giveTurn a l).drawn = s.drawn := rfl

@[simp] theorem State.giveTurn_picked (s : State) (a : Agent) (l : List Nat) :
    (s.giveTurn a l).picked = s.picked := rfl

@[simp] theorem State.giveTurn_reg (s : State) (a : Agent) (l : List Nat) (q : Reg) : (s.giveTurn a l).reg q = s.reg q := by
  cases q <;> rfl

@[simp] theorem State.spawn_params (s : State) (p : Request) (ps : List Request) :
    (s.spawn p ps).params = s.params := rfl

@[simp] theorem State.spawn_faults (s : State) (p : Request) (ps : List Request) :
    (s.spawn p ps).faults = s.faults := rfl

@[simp] theorem State.spawn_agents (s : State) (p : Request) (ps : List Request) :
    (s.spawn p ps).agents = s.agents ++ [{ id := s.freshId, op := p, rest := ps, ph := 0, tmp := 0, done := false, stopped := false }] := rfl

@[simp] theorem State.spawn_history (s : State) (p : Request) (ps : List Request) :
    (s.spawn p ps).history = s.history := rfl

@[simp] theorem State.spawn_completed (s : State) (p : Request) (ps : List Request) :
    (s.spawn p ps).completed = s.completed := rfl

@[simp] theorem State.spawn_sched (s : State) (p : Request) (ps : List Request) :
    (s.spawn p ps).sched = s.sched := rfl

@[simp] theorem State.spawn_turn (s : State) (p : Request) (ps : List Request) :
    (s.spawn p ps).turn = s.turn := rfl

@[simp] theorem State.spawn_drawn (s : State) (p : Request) (ps : List Request) :
    (s.spawn p ps).drawn = s.drawn := rfl

@[simp] theorem State.spawn_picked (s : State) (p : Request) (ps : List Request) :
    (s.spawn p ps).picked = s.picked := rfl

@[simp] theorem State.spawn_reg (s : State) (p : Request) (ps : List Request) (q : Reg) : (s.spawn p ps).reg q = s.reg q := by
  cases q <;> rfl

end Sys2Proof.Machine
end

