-- ==== Sys2Proof/Laws/Bits.lean ====
section
/-! SUPPORT. What the field helpers of R12 do, bit by bit. -/

namespace Sys2Proof.Machine

open Sys2Proof

theorem one_shift_bit (k j : Nat) (hj : j < 32) : (1#32 <<< k).getLsbD j = decide (j = k) := by
  rw [BitVec.getLsbD_shiftLeft]
  by_cases h : j = k
  · subst h; simp [hj]
  · by_cases hl : j < k
    · simp [hl, h]
    · have : j - k ≠ 0 := by omega
      simp [h, this]

theorem low_ones_bit (w j : Nat) (hw : w < 32) : ((1#32 <<< w) - 1#32).getLsbD j = decide (j < w) := by
  have hp : 2 ^ w < 2 ^ 32 := Nat.pow_lt_pow_right (by decide) hw
  have h1 : 1 ≤ 2 ^ w := Nat.one_le_two_pow
  have : ((1#32 <<< w) - 1#32).toNat = 2 ^ w - 1 := by
    simp only [BitVec.toNat_sub, BitVec.toNat_shiftLeft, BitVec.toNat_ofNat, Nat.shiftLeft_eq]
    norm_num
    omega
  simp only [BitVec.getLsbD, this, Nat.testBit_two_pow_sub_one]

@[simp] theorem setBit_bit (v : Word) (k j : Nat) (hj : j < 32) :
    (setBit v k).getLsbD j = (v.getLsbD j || decide (j = k)) := by
  simp only [setBit, BitVec.getLsbD_or, one_shift_bit k j hj]

@[simp] theorem clrBit_bit (v : Word) (k j : Nat) (hj : j < 32) :
    (clrBit v k).getLsbD j = (v.getLsbD j && !decide (j = k)) := by
  simp only [clrBit, BitVec.getLsbD_and, BitVec.getLsbD_not, one_shift_bit k j hj, hj, decide_true, Bool.true_and]

theorem fieldMask_bit (o w j : Nat) (hw : w < 32) (hj : j < 32) :
    (fieldMask o w).getLsbD j = decide (o ≤ j ∧ j < o + w) := by
  by_cases h : o ≤ j
  · have e : j - o < w ↔ j < o + w := by omega
    simp only [fieldMask, BitVec.getLsbD_shiftLeft, low_ones_bit w _ hw, hj, h, e, decide_true, Bool.true_and,
      show ¬j < o by omega, decide_false, Bool.not_false, true_and]
  · simp only [fieldMask, BitVec.getLsbD_shiftLeft, h, show j < o by omega, decide_true, Bool.not_true, Bool.and_false,
      Bool.false_and, false_and, decide_false]

theorem getField_bit (v : Word) (o w j : Nat) (hw : w < 32) :
    (getField v o w).getLsbD j = (decide (j < w) && v.getLsbD (o + j)) := by
  simp only [getField, BitVec.truncate_eq_setWidth, BitVec.getLsbD_setWidth, BitVec.getLsbD_and,
    BitVec.getLsbD_ushiftRight, low_ones_bit w j hw]
  cases decide (j < w) <;> simp

theorem setField_bit (v x : Word) (o w j : Nat) (hw : w < 32) (hj : j < 32) :
    (setField v o w x).getLsbD j = if o ≤ j ∧ j < o + w then x.getLsbD (j - o) else v.getLsbD j := by
  simp only [setField, BitVec.getLsbD_or, BitVec.getLsbD_and, BitVec.getLsbD_not, BitVec.getLsbD_shiftLeft,
    fieldMask_bit o w j hw hj, low_ones_bit w _ hw]
  by_cases h : o ≤ j
  · have e : j - o < w ↔ j < o + w := by omega
    by_cases h2 : j < o + w <;> simp [h, h2, e, hj]
  · simp [h, show j < o by omega, hj]

end Sys2Proof.Machine
end

