-- ==== Sys2Proof/Laws/Decode.lean ====
section
/-! SUPPORT. The decoder and the encoder, row by row (R57, R63). -/

namespace Sys2Proof

@[simp] theorem decodeSrc_encodeSrc (s : SpiClockSource) : decodeSrc (encodeSrc s) = some s := by cases s <;> rfl

@[simp] theorem decodeN_encodeN (n : FactorN) : decodeN (encodeN n) = n := by cases n <;> rfl

theorem mnemonic_mem_all (k : Mnemonic) : k ∈ Mnemonic.all := by cases k <;> decide

/-- The descriptor of a row with an index matches the row; the index is zero where the row has no field I. -/
theorem pattern_matches (k : Mnemonic) (idx : BitVec 4) (h : k.mask = 0xFFFFFFF0 ∨ idx = 0) :
    k.matchesWord (k.pattern ||| idx.zeroExtend 32) = true := by
  rcases h with h | rfl
  · revert idx; cases k <;> revert h <;> decide
  · cases k <;> decide

theorem indexField_pattern (k : Mnemonic) (idx : BitVec 4) (h : k.mask = 0xFFFFFFF0) :
    indexField (k.pattern ||| idx.zeroExtend 32) = idx := by
  revert idx; cases k <;> revert h <;> decide

/-- An operation without the field I has index zero. -/
theorem mask_or_index (i : Instr) : i.mnemonic.mask = 0xFFFFFFF0 ∨ i.index = 0 := by
  cases i <;> first | exact .inl rfl | exact .inr rfl

@[simp] theorem withSource_encodeSrc (s : SpiClockSource) (k : SpiClockSource → Except Rejection Instr) :
    withSource (encodeSrc s).toNat k = k s := by
  cases s <;> rfl

@[simp] theorem withFactorN_encodeN (n : FactorN) (k : FactorN → Except Rejection Instr) :
    withFactorN (encodeN n).toNat k = k n := by
  cases n <;> rfl

/-- The row of a row's own descriptor (R57, R63). -/
theorem decodeRow_row (k : Mnemonic) (idx : BitVec 4) (h : k.mask = 0xFFFFFFF0 ∨ idx = 0) :
    decodeRow (k.pattern ||| idx.zeroExtend 32) = some k := by
  rcases h with h | rfl
  · revert idx; cases k <;> revert h <;> decide
  · cases k <;> decide

theorem decodeRow_encodeDesc (i : Instr) : decodeRow (encodeDesc i) = some i.mnemonic :=
  decodeRow_row _ _ (mask_or_index i)

/-- The decoder on the descriptor of a row with an index. -/
theorem decode_row (nUart : Nat) (k : Mnemonic) (idx : BitVec 4) (o : Operands) (h : k.mask = 0xFFFFFFF0) :
    decode nUart (k.pattern ||| idx.zeroExtend 32) o =
      if k.indexOk nUart idx then k.build idx o else .error .index := by
  simp only [decode, decodeRow_row k idx (.inl h), indexField_pattern k idx h]

theorem indexOk_eq_wf (nUart : Nat) (i : Instr) : i.mnemonic.indexOk nUart i.index = i.wf nUart := by
  cases i <;> rfl

end Sys2Proof
end

