-- ==== Sys2Proof/Laws/Ops.lean ====
section
/-! SUPPORT. One spec lemma per shared operation: what a register access, a fault, a phase step and the control of an
agent can do. -/

namespace Sys2Proof.Machine

open Sys2Proof

/-! ### Address decode (R33, R34, R37) -/

/-- The four offsets are different (R33). -/
theorem off_injective {r q : Reg} (h : r.off = q.off) : r = q := by revert h; cases r <;> cases q <;> decide

theorem regAt_off (r : Reg) : regAt r.off = some r := by cases r <;> decide

/-- A 32-bit access at a register's bus address selects it, for every base (R33, D10). -/
theorem selectReg_register (p : Params) (r : Reg) : selectReg p (p.ccuBase + r.off) 4 = .ok r := by
  have h : ((p.ccuBase + r.off : Nat) : Int) - (p.ccuBase : Int) = r.off := by push_cast; ring
  have h4 : ((r.off : Int) % 4 = 0) := by cases r <;> decide
  simp only [selectReg, h, regAt_off, h4, ne_eq, not_true_eq_false, or_self, if_false]

theorem read32_register (r : Reg) (s : State) (k : Word → State → Outcome) :
    read32 r.off s k = k (s.readValue r) (s.afterRead r) := by
  simp only [read32, memRead, selectReg_register]

theorem write32_register (r : Reg) (v : Word) (s : State) (k : State → Outcome) :
    write32 r.off v s k = k (s.afterWrite r v) := by
  simp only [write32, memWrite, selectReg_register]

theorem memRead_ok {s : State} {addr width : Nat} {r : Reg} (h : selectReg s.params addr width = .ok r)
    (k : Word → State → Outcome) : memRead addr width s k = k (s.readValue r) (s.afterRead r) := by
  simp only [memRead, h]

theorem memRead_error {s : State} {addr width : Nat} {e : FaultCode × FaultInfo}
    (h : selectReg s.params addr width = .error e) (k : Word → State → Outcome) :
    memRead addr width s k = .next (s.raise e.1 e.2) := by
  simp only [memRead, h]

theorem memWrite_ok {s : State} {addr width : Nat} {r : Reg} (h : selectReg s.params addr width = .ok r) (v : Word)
    (k : State → Outcome) : memWrite addr width v s k = k (s.afterWrite r v) := by
  simp only [memWrite, h]

theorem memWrite_error {s : State} {addr width : Nat} {e : FaultCode × FaultInfo}
    (h : selectReg s.params addr width = .error e) (v : Word) (k : State → Outcome) :
    memWrite addr width v s k = .next (s.raise e.1 e.2) := by
  simp only [memWrite, h]

/-! ### The fault set (R25, R115) -/

@[simp] theorem mem_addFault (fs : List FaultRecord) (f g : FaultRecord) : g ∈ addFault fs f ↔ g ∈ fs ∨ g = f := by
  unfold addFault
  split
  · constructor
    · exact Or.inl
    · rintro (h | rfl) <;> assumption
  · simp

theorem addFault_nodup {fs : List FaultRecord} (h : fs.Nodup) (f : FaultRecord) : (addFault fs f).Nodup := by
  unfold addFault
  split
  · exact h
  · rename_i hf
    exact List.nodup_append.mpr ⟨h, List.nodup_singleton f, fun a ha b hb => by
      rw [List.mem_singleton.mp hb]; rintro rfl; exact hf ha⟩

@[simp] theorem mem_foldl_addFault (gs fs : List FaultRecord) (f : FaultRecord) :
    f ∈ gs.foldl addFault fs ↔ f ∈ fs ∨ f ∈ gs := by
  induction gs generalizing fs with
  | nil => simp
  | cons g gs ih => simp [ih, or_assoc]

theorem foldl_addFault_nodup (gs : List FaultRecord) {fs : List FaultRecord} (h : fs.Nodup) :
    (gs.foldl addFault fs).Nodup := by
  induction gs generalizing fs with
  | nil => exact h
  | cons g gs ih => exact ih (addFault_nodup h g)

theorem mem_faultsAfter (s : State) (r : Reg) (f : FaultRecord) :
    f ∈ s.faultsAfter r ↔ f ∈ s.faults ∨ ∃ b ∈ s.agents, b.id ≠ s.turn ∧ b.window s.params.nUart = some r ∧
      f = { code := .race, agent := s.turn, info := .race b.id r.off } := by
  simp only [State.faultsAfter, State.raceRecords, mem_foldl_addFault, List.mem_map, List.mem_filter, Bool.and_eq_true,
    bne_iff_ne, ne_eq, beq_iff_eq, and_assoc]
  exact or_congr Iff.rfl ⟨fun ⟨b, hb, h1, h2, h3⟩ => ⟨b, hb, h1, h2, h3.symm⟩,
    fun ⟨b, hb, h1, h2, h3⟩ => ⟨b, hb, h1, h2, h3.symm⟩⟩

theorem faultsAfter_nodup {s : State} (h : s.faults.Nodup) (r : Reg) : (s.faultsAfter r).Nodup :=
  foldl_addFault_nodup _ h

/-! ### Reads (R19, R20, R35) -/

theorem readValue_mayRead (s : State) (r : Reg) : s.mayRead r (s.readValue r) := by
  intro k hk
  unfold State.readValue readBack
  cases s.params.externalMutation
  · cases s.params.undefBits
    · simp only [Bool.false_eq_true, if_false, BitVec.getLsbD_or, BitVec.getLsbD_and, BitVec.getLsbD_not, hk,
        decide_true, Bool.true_and, reduceCtorEq, or_false]
      cases (r.definedMask s.params.nUart).getLsbD k <;> simp
    · simp
  · simp

/-- With UNDEF_BITS = storage and no external mutation a read returns the stored word (R19, R20). -/
theorem readValue_storage {s : State} (hm : s.params.externalMutation = false) (hu : s.params.undefBits = .storage)
    (r : Reg) : s.readValue r = s.reg r := by
  simp only [State.readValue, readBack, hm, hu, Bool.false_eq_true, if_false]

/-! ### The byte view (R38) -/

theorem regByte_range {off : Int} {r : Reg} {j : Nat} (h : regByte off = some (r, j)) :
    (r.off : Int) ≤ off ∧ off < r.off + 4 := by
  simp only [regByte, Option.map_eq_some_iff, Prod.mk.injEq] at h
  obtain ⟨q, hq, rfl, -⟩ := h
  simpa using List.find?_some hq

theorem byteAt_congr {s t : State} (hp : t.params = s.params) (hr : ∀ r, t.reg r = s.reg r) (b : Nat) :
    t.byteAt b = s.byteAt b := by
  simp only [State.byteAt, hp, hr]

theorem byteAt_outside {s t : State} {r : Reg} (hp : t.params = s.params) (hr : ∀ q, q ≠ r → t.reg q = s.reg q)
    {b : Nat} (hb : ¬(s.params.ccuBase + r.off ≤ b ∧ b < s.params.ccuBase + r.off + 4)) : t.byteAt b = s.byteAt b := by
  simp only [State.byteAt, hp]
  cases hq : regByte ((b : Int) - (s.params.ccuBase : Int)) with
  | none => rfl
  | some x =>
    obtain ⟨q, j⟩ := x
    have := regByte_range hq
    have hne : q ≠ r := by rintro rfl; omega
    simp only [Option.map_some, hr q hne]

/-! ### The agent whose turn it is (R27) -/

theorem current_spec {s : State} {a : Agent} (h : s.current = some a) :
    a ∈ s.agents ∧ a.id = s.turn ∧ a.done = false ∧ a.stopped = false := by
  have hm := List.mem_of_find?_eq_some h
  have hp := List.find?_some h
  simp only [Agent.running, Bool.and_eq_true, beq_iff_eq, Bool.not_eq_true'] at hp
  exact ⟨hm, hp.1, hp.2.1, hp.2.2⟩

theorem inFlight_current {s : State} {a : Agent} (h : s.current = some a) (k : Agent → Outcome) :
    inFlight s k = k a := by
  simp only [inFlight, h]

theorem inFlight_next {s t : State} {k : Agent → Outcome} (h : inFlight s k = .next t) :
    ∃ a, s.current = some a ∧ k a = .next t := by
  unfold inFlight at h
  split at h
  · exact ⟨_, ‹_›, h⟩
  · cases h

theorem oneStep_runs {s : State} {a : Agent} (h : s.runs a 0) (k : Agent → Outcome) : oneStep s k = k a := by
  simp only [oneStep, inFlight_current h.1, h.2, if_true]

theorem oneStep_next {s t : State} {k : Agent → Outcome} (h : oneStep s k = .next t) :
    ∃ a, s.runs a 0 ∧ k a = .next t := by
  obtain ⟨a, ha, h⟩ := inFlight_next h
  split at h
  · exact ⟨a, ⟨ha, ‹_›⟩, h⟩
  · cases h

/-! ### The shapes of a phase step -/

theorem busRead_runs {s : State} {a : Agent} (h : s.runs a 0) (r : Reg) : busRead r.off s =
    .next (((s.afterRead r).advance (s.readValue r) 0).finish a.op (.word (s.readValue r))) := by
  simp only [busRead, oneStep_runs h, read32_register, h.2]

theorem busWrite_runs {s : State} {a : Agent} (h : s.runs a 0) (r : Reg) (v : Word) :
    busWrite r.off v s = .next ((s.afterWrite r v).finish a.op .unit) := by
  simp only [busWrite, oneStep_runs h, write32_register]

theorem pureOp_runs {s : State} {a : Agent} (h : s.runs a 0) (res : Result) :
    pureOp res s = .next (s.finish a.op res) := by
  simp only [pureOp, oneStep_runs h]

theorem bringup_read {s : State} {a : Agent} (h : s.runs a 0) (r : Reg) (idx : BitVec 4) :
    bringup r.off idx s = .next ((s.afterRead r).advance (s.readValue r) 1) := by
  simp only [bringup, inFlight_current h.1, h.2, read32_register]

theorem bringup_hold {s : State} {a : Agent} (h : s.runs a 1) (r : Reg) (idx : BitVec 4) :
    bringup r.off idx s = .next ((s.afterWrite r (holdInReset idx a.tmp)).advance a.tmp 2) := by
  simp only [bringup, inFlight_current h.1, h.2, write32_register]

theorem bringup_reread {s : State} {a : Agent} (h : s.runs a 2) (r : Reg) (idx : BitVec 4) :
    bringup r.off idx s = .next ((s.afterRead r).advance (s.readValue r) 3) := by
  simp only [bringup, inFlight_current h.1, h.2, read32_register]

theorem bringup_release {s : State} {a : Agent} (h : s.runs a 3) (r : Reg) (idx : BitVec 4) :
    bringup r.off idx s = .next ((s.afterWrite r (letRun idx a.tmp)).finish a.op .unit) := by
  simp only [bringup, inFlight_current h.1, h.2, write32_register]

theorem powerdown_read {s : State} {a : Agent} (h : s.runs a 0) (r : Reg) (idx : BitVec 4) :
    powerdown r.off idx s = .next ((s.afterRead r).advance (s.readValue r) 1) := by
  simp only [powerdown, inFlight_current h.1, h.2, read32_register]

theorem powerdown_hold {s : State} {a : Agent} (h : s.runs a 1) (r : Reg) (idx : BitVec 4) :
    powerdown r.off idx s = .next ((s.afterWrite r (holdInReset idx a.tmp)).finish a.op .unit) := by
  simp only [powerdown, inFlight_current h.1, h.2, write32_register]

/-- The clock register of an SPI instance is at 0x940 + 4*I (R16, R111). -/
theorem spiClk_off {idx : BitVec 4} (h : idx.toNat < nSpi) : (spiClk idx).off = 0x940 + 4 * idx.toNat := by
  have : idx = 0 ∨ idx = 1 := by
    have : idx.toNat = 0 ∨ idx.toNat = 1 := by simp only [nSpi] at h; omega
    rcases this with h | h
    · exact .inl (BitVec.eq_of_toNat_eq h)
    · exact .inr (BitVec.eq_of_toNat_eq h)
  rcases this with rfl | rfl <;> rfl

/-! ### The operations in the terms of Safety -/

theorem turnBecomes_rfl (s t : State) (f : Agent → Agent)
    (h : t.agents = s.agents.map fun b => if b.id = s.turn then f b else b) : s.turnBecomes t f := h

/-- A state that holds what a read of `r` leaves, whatever became of the agents and the reports. -/
theorem didRead_of {s t : State} {r : Reg} (hp : t.params = s.params) (hs : t.sched = s.sched) (ht : t.turn = s.turn)
    (hk : t.picked = s.picked) (hd : t.drawn = s.drawn + 1) (hr : ∀ q, t.reg q = s.reg q)
    (hf : t.faults = s.faultsAfter r)
    (hh : t.history = s.history ++ [{ agent := s.turn, dir := .read, off := r.off, value := s.readValue r }]) :
    s.didRead t r (s.readValue r) :=
  ⟨readValue_mayRead s r, ⟨hp, hs, ht, hk⟩, ⟨hr, byteAt_congr hp hr⟩, fun f => hf ▸ mem_faultsAfter s r f, hd, hh⟩

/-- A state that holds what a write of `r` leaves, whatever became of the agents and the reports. -/
theorem didWrite_of {s t : State} {r : Reg} {v : Word} (hp : t.params = s.params) (hs : t.sched = s.sched)
    (ht : t.turn = s.turn) (hk : t.picked = s.picked) (hd : t.drawn = s.drawn) (hv : t.reg r = v)
    (hr : ∀ q, q ≠ r → t.reg q = s.reg q) (hf : t.faults = s.faultsAfter r)
    (hh : t.history = s.history ++ [{ agent := s.turn, dir := .write, off := r.off, value := v }]) :
    s.didWrite t r v :=
  ⟨hv, hr, fun _ hb => byteAt_outside hp hr hb, ⟨hp, hs, ht, hk⟩, fun f => hf ▸ mem_faultsAfter s r f, hd, hh⟩

theorem raise_noAccess (s : State) (c : FaultCode) (x : FaultInfo) : s.noAccess (s.raise c x) :=
  ⟨⟨rfl, rfl, rfl, rfl⟩, ⟨fun r => by simp, byteAt_congr rfl fun r => by simp⟩, rfl, rfl⟩

theorem finish_noAccess (s : State) (op : Request) (res : Result) : s.noAccess (s.finish op res) :=
  ⟨⟨rfl, rfl, rfl, rfl⟩, ⟨fun r => by simp, byteAt_congr rfl fun r => by simp⟩, rfl, rfl⟩

end Sys2Proof.Machine
end

