-- ==== Sys2Proof/Laws/Effects.lean ====
section
/-! SUPPORT. What a phase step of any operation can do, said once: the effects of an operation, of a turn and of a
step of the machine. Every invariant is a case analysis over these. -/

namespace Sys2Proof.Machine

open Sys2Proof

/-- What one phase step of the agent with record `a` can make of state `s`. `n` is how many phases the operation has,
`w` the register a multi-access operation works on. -/
inductive Effect (s : State) (a : Agent) (n : Nat) (w : Option Reg) : State → Prop
  | readOn (r : Reg) (k : Nat) (hk : k = a.ph + 1) (hn : k < n) (hw : w = some r) :
      Effect s a n w ((s.afterRead r).advance (s.readValue r) k)
  | writeOn (r : Reg) (v : Word) (k : Nat) (hk : k = a.ph + 1) (hn : k < n) (hw : w = some r) :
      Effect s a n w ((s.afterWrite r v).advance a.tmp k)
  | writeLast (r : Reg) (v : Word) : Effect s a n w ((s.afterWrite r v).finish a.op .unit)
  | readLast (r : Reg) : Effect s a n w (((s.afterRead r).advance (s.readValue r) 0).finish a.op (.word (s.readValue r)))
  | pure (res : Result) : Effect s a n w (s.finish a.op res)
  | raise (c : FaultCode) (x : FaultInfo) : Effect s a n w (s.raise c x)

/-- Whatever a phase step does, it changes the record of its own agent only, keeps that agent's program, and leaves
the control fields alone. -/
theorem Effect.frame {s t : State} {a : Agent} {n : Nat} {w : Option Reg} (e : Effect s a n w t) :
    s.keepsControl t ∧ ∃ f : Agent → Agent, (∀ x, (f x).id = x.id ∧ (f x).op = x.op ∧ (f x).rest = x.rest) ∧
      t.agents = s.agents.map fun x => if x.id = s.turn then f x else x := by
  cases e with
  | readOn r k => exact ⟨⟨rfl, rfl, rfl, rfl⟩, fun x => { x with tmp := s.readValue r, ph := k }, fun _ => ⟨rfl, rfl, rfl⟩, rfl⟩
  | writeOn r v k =>
    exact ⟨⟨by simp, by simp, by simp, by simp⟩, fun x => { x with tmp := a.tmp, ph := k }, fun _ => ⟨rfl, rfl, rfl⟩, by simp⟩
  | writeLast r v =>
    exact ⟨⟨by simp, by simp, by simp, by simp⟩, fun x => { x with done := true }, fun _ => ⟨rfl, rfl, rfl⟩, by simp⟩
  | readLast r =>
    refine ⟨⟨rfl, rfl, rfl, rfl⟩, fun x => { x with tmp := s.readValue r, ph := 0, done := true }, fun _ => ⟨rfl, rfl, rfl⟩, ?_⟩
    simp only [State.finish_agents, State.advance_agents, State.advance_turn, State.afterRead_agents,
      State.afterRead_turn, List.map_map]
    refine List.map_congr_left fun x _ => ?_
    by_cases h : x.id = s.turn <;> simp [h]
  | pure res => exact ⟨⟨rfl, rfl, rfl, rfl⟩, fun x => { x with done := true }, fun _ => ⟨rfl, rfl, rfl⟩, rfl⟩
  | raise c x => exact ⟨⟨rfl, rfl, rfl, rfl⟩, fun x => { x with stopped := true }, fun _ => ⟨rfl, rfl, rfl⟩, rfl⟩

theorem checkIndex_next {ok : Bool} {k : Outcome} {t : State} (h : checkIndex ok k = .next t) : ok = true ∧ k = .next t := by
  unfold checkIndex at h
  split at h
  · exact ⟨‹_›, h⟩
  · cases h

section
variable {s t : State}

theorem busRead_effect {r : Reg} {n : Nat} {w : Option Reg} (h : busRead r.off s = .next t) :
    ∃ a, s.current = some a ∧ Effect s a n w t := by
  obtain ⟨a, ha, -⟩ := oneStep_next h
  rw [busRead_runs ha] at h
  cases h
  exact ⟨a, ha.1, .readLast r⟩

theorem busWrite_effect {r : Reg} {v : Word} {n : Nat} {w : Option Reg} (h : busWrite r.off v s = .next t) :
    ∃ a, s.current = some a ∧ Effect s a n w t := by
  obtain ⟨a, ha, -⟩ := oneStep_next h
  rw [busWrite_runs ha] at h
  cases h
  exact ⟨a, ha.1, .writeLast r v⟩

theorem pureOp_effect {res : Result} {n : Nat} {w : Option Reg} (h : pureOp res s = .next t) :
    ∃ a, s.current = some a ∧ Effect s a n w t := by
  obtain ⟨a, ha, -⟩ := oneStep_next h
  rw [pureOp_runs ha] at h
  cases h
  exact ⟨a, ha.1, .pure res⟩

theorem raise_effect {c : FaultCode} {x : FaultInfo} {n : Nat} {w : Option Reg}
    (h : oneStep s (fun _ => .next (s.raise c x)) = .next t) : ∃ a, s.current = some a ∧ Effect s a n w t := by
  obtain ⟨a, ha, h⟩ := oneStep_next h
  cases h
  exact ⟨a, ha.1, .raise c x⟩

theorem bringup_effect {r : Reg} {idx : BitVec 4} (h : bringup r.off idx s = .next t) :
    ∃ a, s.current = some a ∧ Effect s a 4 (some r) t := by
  obtain ⟨a, ha, hk⟩ := inFlight_next h
  refine ⟨a, ha, ?_⟩
  split at hk
  · rename_i hp
    rw [read32_register] at hk; cases hk
    exact .readOn r _ (by omega) (by omega) rfl
  · rename_i hp
    rw [write32_register] at hk; cases hk
    exact .writeOn r _ _ (by omega) (by omega) rfl
  · rename_i hp
    rw [read32_register] at hk; cases hk
    exact .readOn r _ (by omega) (by omega) rfl
  · rw [write32_register] at hk; cases hk; exact .writeLast r _
  · cases hk

theorem powerdown_effect {r : Reg} {idx : BitVec 4} (h : powerdown r.off idx s = .next t) :
    ∃ a, s.current = some a ∧ Effect s a 2 (some r) t := by
  obtain ⟨a, ha, hk⟩ := inFlight_next h
  refine ⟨a, ha, ?_⟩
  split at hk
  · rename_i hp
    rw [read32_register] at hk; cases hk
    exact .readOn r _ (by omega) (by omega) rfl
  · rw [write32_register] at hk; cases hk; exact .writeLast r _
  · cases hk

theorem configure_effect {r : Reg} {src : SpiClockSource} {m : Nat} {n : FactorN}
    (h : configure r.off src m n s = .next t) : ∃ a, s.current = some a ∧ Effect s a 2 (some r) t := by
  obtain ⟨a, ha, hk⟩ := inFlight_next h
  refine ⟨a, ha, ?_⟩
  split at hk
  · rename_i hp
    split at hk
    · cases hk; exact .raise .precondM (.divider m)
    · rw [read32_register] at hk; cases hk
      exact .readOn r _ (by omega) (by omega) rfl
  · rw [write32_register] at hk; cases hk; exact .writeLast r _
  · cases hk

/-- What an operation can do in one phase step. -/
theorem exec_effect {i : Instr} (h : exec i s = .next t) :
    ∃ a, s.current = some a ∧ Effect s a (phases i) (windowTarget i) t := by
  cases i with
  | rdUartBgr => exact busRead_effect (r := .uartBgr) h
  | rdSpiClk0 => exact busRead_effect (r := .spiClk0) h
  | rdSpiClk1 => exact busRead_effect (r := .spiClk1) h
  | rdSpiBgr => exact busRead_effect (r := .spiBgr) h
  | wrUartBgr v => exact busWrite_effect (r := .uartBgr) h
  | wrSpiClk0 v => exact busWrite_effect (r := .spiClk0) h
  | wrSpiClk1 v => exact busWrite_effect (r := .spiClk1) h
  | wrSpiBgr v => exact busWrite_effect (r := .spiBgr) h
  | uartBringup idx => exact bringup_effect (r := .uartBgr) (checkIndex_next h).2
  | spiBringup idx => exact bringup_effect (r := .spiBgr) (checkIndex_next h).2
  | uartPowerdown idx => exact powerdown_effect (r := .uartBgr) (checkIndex_next h).2
  | spiPowerdown idx => exact powerdown_effect (r := .spiBgr) (checkIndex_next h).2
  | spiConfigure idx src m n =>
    obtain ⟨hi, h⟩ := checkIndex_next h
    rw [← spiClk_off (of_decide_eq_true hi)] at h
    exact configure_effect (r := spiClk idx) h
  | spiclkSourceGet v =>
    simp only [exec, execSpiclkSourceGet] at h
    split at h
    · exact pureOp_effect h
    · exact raise_effect h
  | spiclkMSet v m =>
    simp only [exec, execSpiclkMSet] at h
    split at h
    · exact raise_effect h
    · exact pureOp_effect h
  | uartGateMask idx v => exact pureOp_effect h
  | uartGatePass idx v => exact pureOp_effect h
  | uartAssertReset idx v => exact pureOp_effect h
  | uartDeassertReset idx v => exact pureOp_effect h
  | uartGateGet idx v => exact pureOp_effect h
  | uartResetGet idx v => exact pureOp_effect h
  | spiGateMask idx v => exact pureOp_effect h
  | spiGatePass idx v => exact pureOp_effect h
  | spiAssertReset idx v => exact pureOp_effect h
  | spiDeassertReset idx v => exact pureOp_effect h
  | spiGateGet idx v => exact pureOp_effect h
  | spiResetGet idx v => exact pureOp_effect h
  | spiclkSourceSet v src => exact pureOp_effect h
  | spiclkNGet v => exact pureOp_effect h
  | spiclkNSet v n => exact pureOp_effect h
  | spiclkMGet v => exact pureOp_effect h

theorem rawRead_effect {addr width n : Nat} {w : Option Reg} (h : rawRead addr width s = .next t) :
    ∃ a, s.current = some a ∧ Effect s a n w t := by
  obtain ⟨a, ha, h⟩ := oneStep_next h
  cases hs : selectReg s.params addr width with
  | ok r => rw [memRead_ok hs, ha.2] at h; cases h; exact ⟨a, ha.1, .readLast r⟩
  | error e => rw [memRead_error hs] at h; cases h; exact ⟨a, ha.1, .raise e.1 e.2⟩

theorem rawWrite_effect {addr width n : Nat} {v : Word} {w : Option Reg} (h : rawWrite addr width v s = .next t) :
    ∃ a, s.current = some a ∧ Effect s a n w t := by
  obtain ⟨a, ha, h⟩ := oneStep_next h
  cases hs : selectReg s.params addr width with
  | ok r => rw [memWrite_ok hs] at h; cases h; exact ⟨a, ha.1, .writeLast r v⟩
  | error e => rw [memWrite_error hs] at h; cases h; exact ⟨a, ha.1, .raise e.1 e.2⟩

/-- The operation in flight, decoded; a raw access has none. -/
def Request.instr (nUart : Nat) : Request → Option Instr
  | .op d o => (decode nUart d o).toOption
  | .rawRead _ _ => none
  | .rawWrite _ _ _ => none

/-- What the request in flight can do in one phase step. -/
theorem runRequest_effect {r : Request} (h : runRequest r s = .next t) :
    ∃ a, s.current = some a ∧
      Effect s a (((Request.instr s.params.nUart r).map phases).getD 1) ((Request.instr s.params.nUart r).bind windowTarget) t := by
  cases r with
  | op d o =>
    simp only [runRequest] at h
    cases hd : decode s.params.nUart d o with
    | ok i =>
      rw [hd] at h
      simpa [Request.instr, hd, Except.toOption] using exec_effect h
    | error e => rw [hd] at h; cases h
  | rawRead addr width => exact rawRead_effect h
  | rawWrite addr width v => exact rawWrite_effect h

end

/-! ### Submission -/

theorem firstRejection_none {nUart : Nat} {rs : List Request} :
    firstRejection nUart rs = none ↔ ∀ r ∈ rs, rejection nUart r = none := by
  simp [firstRejection, List.findSome?_eq_none_iff]

theorem programRejection_none {nUart : Nat} {p : Program} :
    p.rejection nUart = none ↔ ∀ x ∈ p, ∀ r ∈ x.1 :: x.2, rejection nUart r = none := by
  simp only [Program.rejection, List.findSome?_eq_none_iff, firstRejection_none]

/-- A program is answered with a refusal exactly when it holds a refused operation, and the refusal is one of these. -/
theorem submit_error {s : State} {p : Program} {e : Rejection} (h : s.submit p = .error e) :
    ∃ x ∈ p, ∃ r ∈ x.1 :: x.2, rejection s.params.nUart r = some e := by
  unfold State.submit at h
  split at h
  · rename_i e' he
    cases h
    obtain ⟨x, hx, he⟩ := List.exists_of_findSome?_eq_some he
    obtain ⟨r, hr, he⟩ := List.exists_of_findSome?_eq_some he
    exact ⟨x, hx, r, hr, he⟩
  · cases h

theorem submit_ok {s t : State} {p : Program} :
    s.submit p = .ok t ↔ p.rejection s.params.nUart = none ∧ t = p.foldl (fun u x => u.spawn x.1 x.2) s := by
  unfold State.submit
  split
  · simp [*]
  · simp [*, eq_comm]

/-- A number no agent has is above all of them. -/
theorem lt_freshId {s : State} {a : Agent} (h : a ∈ s.agents) : a.id < s.freshId := by
  have mono : ∀ (l : List Agent) (n : Nat), n ≤ l.foldl (fun n a => max n (a.id + 1)) n := by
    intro l
    induction l with
    | nil => intro n; exact Nat.le_refl n
    | cons b l ih => intro n; exact Nat.le_trans (Nat.le_max_left _ _) (ih _)
  have all : ∀ (l : List Agent) (n : Nat), a ∈ l → a.id < l.foldl (fun n a => max n (a.id + 1)) n := by
    intro l
    induction l with
    | nil => intro n h; cases h
    | cons b l ih =>
      intro n h
      rcases List.mem_cons.mp h with rfl | h
      · exact Nat.lt_of_lt_of_le (Nat.lt_of_lt_of_le (Nat.lt_succ_self _) (Nat.le_max_right n _)) (mono l _)
      · exact ih _ h
  exact all s.agents 0 h

/-- What the agents of a program are: one at phase 0 for each list, with new numbers; every other field is as before. -/
theorem spawnAll_spec (p : Program) (s : State) :
    ∃ new : List Agent, p.foldl (fun u x => u.spawn x.1 x.2) s = { s with agents := s.agents ++ new } ∧
      new.map (fun a => (a.op, a.rest)) = p ∧
      (∀ a ∈ new, a.ph = 0 ∧ a.done = false ∧ a.stopped = false ∧ ∀ b ∈ s.agents, b.id < a.id) ∧
      (new.map fun a => a.id).Nodup := by
  induction p generalizing s with
  | nil => exact ⟨[], by simp, rfl, by simp, by simp⟩
  | cons x p ih =>
    obtain ⟨new, ht, hm, hn, hd⟩ := ih (s.spawn x.1 x.2)
    refine ⟨{ id := s.freshId, op := x.1, rest := x.2, ph := 0, tmp := 0, done := false, stopped := false } :: new,
      ?_, by simp [hm], ?_, ?_⟩
    · rw [List.foldl_cons, ht]; simp [State.spawn]
    · intro a ha
      rcases List.mem_cons.mp ha with rfl | ha
      · exact ⟨rfl, rfl, rfl, fun b hb => lt_freshId hb⟩
      · obtain ⟨h1, h2, h3, h4⟩ := hn a ha
        exact ⟨h1, h2, h3, fun b hb => h4 b (by simp [hb])⟩
    · refine List.nodup_cons.mpr ⟨fun hmem => ?_, hd⟩
      obtain ⟨a, ha, hid⟩ := List.mem_map.mp hmem
      have := (hn a ha).2.2.2 { id := s.freshId, op := x.1, rest := x.2, ph := 0, tmp := 0, done := false, stopped := false }
        (by simp)
      simp only [hid] at this
      exact absurd this (Nat.lt_irrefl _)

/-- A descriptor the decoder admits, placed for the next step: one new agent, named first in the schedule. -/
theorem withFetchWord_ok {s : State} {w : Nat} {i : Instr} (hw : w < 2 ^ 32)
    (h : decode s.params.nUart (BitVec.ofNat 32 w) .zero = .ok i) :
    s.withFetchWord 32 w = { s.spawn (.op (BitVec.ofNat 32 w) .zero) [] with sched := s.freshId :: s.sched } := by
  have hs : s.submit [(.op (BitVec.ofNat 32 w) .zero, [])] = .ok (s.spawn (.op (BitVec.ofNat 32 w) .zero) []) :=
    submit_ok.mpr ⟨by simp [Program.rejection, firstRejection, rejection, h], rfl⟩
  simp only [State.withFetchWord, Nat.mod_eq_of_lt hw, hs, State.spawn_sched]

/-- A descriptor the decoder refuses places nothing (R121). -/
theorem withFetchWord_refused {s : State} {w : Nat} {e : Rejection} (hw : w < 2 ^ 32)
    (h : decode s.params.nUart (BitVec.ofNat 32 w) .zero = .error e) : s.withFetchWord 32 w = s := by
  have hs : s.submit [(.op (BitVec.ofNat 32 w) .zero, [])] = .error e := by
    simp [State.submit, Program.rejection, firstRejection, rejection, h]
  simp only [State.withFetchWord, Nat.mod_eq_of_lt hw, hs]

/-! ### Whose turn it is -/

/-- How an agent begins a step: with the operation in flight, or with the next one of its program at phase 0. -/
theorem begin_cases {a b : Agent} (h : a.begin = some b) :
    a.stopped = false ∧ b.id = a.id ∧ b.done = false ∧ b.stopped = false ∧
      (b = a ∨ a.done = true ∧ b.ph = 0 ∧ a.rest = b.op :: b.rest ∧ b.tmp = a.tmp) := by
  obtain ⟨id, op, rest, ph, tmp, done, stopped⟩ := a
  cases stopped
  · cases done
    · cases h; simp
    · cases rest with
      | nil => cases h
      | cons q qs => cases h; simp
  · cases h

/-- Beginning a step keeps an agent free of refused operations (R121). -/
theorem begin_admitted {nUart : Nat} {a b : Agent} (h : a.begin = some b) (ha : a.rejection nUart = none) :
    b.rejection nUart = none := by
  obtain ⟨-, -, -, -, rfl | ⟨-, -, hr, -⟩⟩ := begin_cases h
  · exact ha
  · rw [Agent.rejection, hr] at ha
    exact firstRejection_none.mpr fun r h => firstRejection_none.mp ha r (List.mem_cons_of_mem _ h)

theorem agent_mem {s : State} {id : Nat} {a : Agent} (h : s.agent id = some a) : a ∈ s.agents ∧ a.id = id :=
  ⟨List.mem_of_find?_eq_some h, by simpa using List.find?_some h⟩

theorem scheduled_spec {s : State} {l : List Nat} {b : Agent} {rest : List Nat} (h : s.scheduled l = some (b, rest)) :
    ∃ a ∈ s.agents, a.begin = some b := by
  induction l with
  | nil => cases h
  | cons id ids ih =>
    simp only [State.scheduled] at h
    split at h
    · rename_i b' hb
      cases h
      obtain ⟨a, ha, hbeg⟩ := Option.bind_eq_some_iff.mp hb
      exact ⟨a, (agent_mem ha).1, hbeg⟩
    · exact ih h

/-- The state in which the next step runs: an agent that can take a step begins it and has the turn. -/
theorem nextTurn_cases {s u : State} (h : s.nextTurn = some u) :
    ∃ a ∈ s.agents, ∃ b, a.begin = some b ∧ ∃ sched picked, u = { s.giveTurn b sched with picked := picked } := by
  unfold State.nextTurn at h
  split at h
  · rename_i b sched hs
    cases h
    obtain ⟨a, ha, hb⟩ := scheduled_spec hs
    exact ⟨a, ha, b, hb, sched, s.picked, rfl⟩
  · split at h
    · cases h
    · rename_i b hl
      cases h
      have hm : b ∈ s.agents.filterMap Agent.begin := by simp [hl]
      obtain ⟨a, ha, hb⟩ := List.mem_filterMap.mp hm
      exact ⟨a, ha, b, hb, [], s.picked, rfl⟩
    · rename_i x y more hl
      cases h
      have hm : (x :: y :: more).getD (Config.choice s.picked % (more.length + 2)) x ∈ s.agents.filterMap Agent.begin := by
        rw [hl]
        have hlt : Config.choice s.picked % (more.length + 2) < (x :: y :: more).length := by
          simpa using Nat.mod_lt (Config.choice s.picked) (Nat.succ_pos (more.length + 1))
        rw [List.getD_eq_getElem _ _ hlt]
        exact List.getElem_mem hlt
      obtain ⟨a, ha, hb⟩ := List.mem_filterMap.mp hm
      exact ⟨a, ha, _, hb, [], s.picked + 1, rfl⟩

/-- The agent that was given the turn is the one whose operation is in flight. -/
theorem giveTurn_current {s : State} {a b : Agent} (ha : a ∈ s.agents) (hb : a.begin = some b) (sched : List Nat) :
    (s.giveTurn b sched).current = some b := by
  obtain ⟨-, hid, hd, hs, -⟩ := begin_cases hb
  have hrun : b.running = true := by simp [Agent.running, hd, hs]
  simp only [State.current, State.giveTurn_agents, State.giveTurn_turn]
  revert ha
  induction s.agents with
  | nil => intro ha; cases ha
  | cons c cs ih =>
    intro ha
    by_cases hc : c.id = b.id
    · simp [hc, hrun]
    · rcases List.mem_cons.mp ha with rfl | ha
      · exact absurd hid.symm hc
      · simp [hc, ih ha]

/-- The state in which the next step runs, field by field. -/
theorem nextTurn_spec {s u : State} (h : s.nextTurn = some u) :
    ∃ a ∈ s.agents, ∃ b, a.begin = some b ∧ u.current = some b ∧ u.turn = b.id ∧
      u.agents = s.agents.map (fun c => if c.id = b.id then b else c) ∧ u.params = s.params ∧
      (∀ r, u.reg r = s.reg r) ∧ u.faults = s.faults ∧ u.history = s.history ∧ u.completed = s.completed ∧
      u.drawn = s.drawn := by
  obtain ⟨a, ha, b, hb, sched, picked, rfl⟩ := nextTurn_cases h
  exact ⟨a, ha, b, hb, giveTurn_current ha hb sched, rfl, rfl, rfl, fun r => by cases r <;> rfl, rfl, rfl, rfl, rfl⟩

/-- What a step can do: nothing when no agent can move, or one phase step of the agent that has the turn. -/
theorem step_cases {s t : State} (h : step s = .next t) :
    s.nextTurn = none ∧ t = s ∨
      ∃ u a, s.nextTurn = some u ∧ u.current = some a ∧ runRequest a.op u = .next t := by
  unfold step at h
  split at h
  · cases h; exact .inl ⟨‹_›, rfl⟩
  · rename_i u hu
    unfold runTurn at h
    split at h
    · cases h
    · rename_i a ha
      exact .inr ⟨u, a, hu, ha, h⟩

end Sys2Proof.Machine
end

