-- ==== Sys2Proof/Laws/PerInstr.lean ====
section
/-! SUPPORT. Facts about an operation as syntax, one lemma per constructor of Instr. -/

namespace Sys2Proof.Laws.EncodingRow

open Sys2Proof

/-- The operation's descriptor matches its row of the opcode table (R57, R63). -/
def Statement (i : Instr) : Prop := i.mnemonic.matchesWord (encodeDesc i) = true

/-- The descriptor of any operation is its row's pattern with its index. -/
theorem row_matches (i : Instr) : Statement i := pattern_matches i.mnemonic i.index (mask_or_index i)

theorem rdUartBgr : Statement .rdUartBgr := row_matches _

theorem wrUartBgr (v : Word) : Statement (.wrUartBgr v) := row_matches _

theorem rdSpiClk0 : Statement .rdSpiClk0 := row_matches _

theorem wrSpiClk0 (v : Word) : Statement (.wrSpiClk0 v) := row_matches _

theorem rdSpiClk1 : Statement .rdSpiClk1 := row_matches _

theorem wrSpiClk1 (v : Word) : Statement (.wrSpiClk1 v) := row_matches _

theorem rdSpiBgr : Statement .rdSpiBgr := row_matches _

theorem wrSpiBgr (v : Word) : Statement (.wrSpiBgr v) := row_matches _

theorem uartGateMask (idx : BitVec 4) (v : Word) : Statement (.uartGateMask idx v) := row_matches _

theorem uartGatePass (idx : BitVec 4) (v : Word) : Statement (.uartGatePass idx v) := row_matches _

theorem uartAssertReset (idx : BitVec 4) (v : Word) : Statement (.uartAssertReset idx v) := row_matches _

theorem uartDeassertReset (idx : BitVec 4) (v : Word) : Statement (.uartDeassertReset idx v) := row_matches _

theorem uartGateGet (idx : BitVec 4) (v : Word) : Statement (.uartGateGet idx v) := row_matches _

theorem uartResetGet (idx : BitVec 4) (v : Word) : Statement (.uartResetGet idx v) := row_matches _

theorem spiGateMask (idx : BitVec 4) (v : Word) : Statement (.spiGateMask idx v) := row_matches _

theorem spiGatePass (idx : BitVec 4) (v : Word) : Statement (.spiGatePass idx v) := row_matches _

theorem spiAssertReset (idx : BitVec 4) (v : Word) : Statement (.spiAssertReset idx v) := row_matches _

theorem spiDeassertReset (idx : BitVec 4) (v : Word) : Statement (.spiDeassertReset idx v) := row_matches _

theorem spiGateGet (idx : BitVec 4) (v : Word) : Statement (.spiGateGet idx v) := row_matches _

theorem spiResetGet (idx : BitVec 4) (v : Word) : Statement (.spiResetGet idx v) := row_matches _

theorem spiclkSourceGet (v : Word) : Statement (.spiclkSourceGet v) := row_matches _

theorem spiclkSourceSet (v : Word) (src : SpiClockSource) : Statement (.spiclkSourceSet v src) := row_matches _

theorem spiclkNGet (v : Word) : Statement (.spiclkNGet v) := row_matches _

theorem spiclkNSet (v : Word) (n : FactorN) : Statement (.spiclkNSet v n) := row_matches _

theorem spiclkMGet (v : Word) : Statement (.spiclkMGet v) := row_matches _

theorem spiclkMSet (v : Word) (m : Nat) : Statement (.spiclkMSet v m) := row_matches _

theorem uartBringup (idx : BitVec 4) : Statement (.uartBringup idx) := row_matches _

theorem uartPowerdown (idx : BitVec 4) : Statement (.uartPowerdown idx) := row_matches _

theorem spiBringup (idx : BitVec 4) : Statement (.spiBringup idx) := row_matches _

theorem spiPowerdown (idx : BitVec 4) : Statement (.spiPowerdown idx) := row_matches _

theorem spiConfigure (idx : BitVec 4) (src : SpiClockSource) (m : Nat) (n : FactorN) : Statement (.spiConfigure idx src m n) := row_matches _

end Sys2Proof.Laws.EncodingRow
end

