-- ==== Sys2Proof/Tests/Slice0.lean ====
section
/-! SUPPORT. The model's own tests. Expected values are the worked examples of the rules and the vectors of
spec/95_test_vectors.md (V-…), or are worked out by hand from the spec's encodings; none is read off the model. -/

namespace Sys2Proof.Tests

open Sys2Proof Sys2Proof.Machine

/-! ### Helpers -/

/-- The parameters 95_test_vectors.md assumes: UNDEF_BITS = storage, no external mutation, N_UART = 6. -/
def params : Params :=
  { nUart := 6, ccuBase := 0x1000, addrWidth := 32, undefBits := .storage, externalMutation := false }

/-- The record of agent 0 with one operation. -/
def agentOf (r : Request) (ph : Nat) (tmp : Word) : Agent :=
  { id := 0, op := r, rest := [], ph := ph, tmp := tmp, done := false, stopped := false }

/-- A small state: the four registers, and agent 0 with a request in flight at a phase. -/
def stateOf (u c0 c1 b : Word) (r : Request) (ph : Nat) (tmp : Word) : State :=
  { State.resetWith params { uartBgr := u, spiClk0 := c0, spiClk1 := c1, spiBgr := b } with
    agents := [agentOf r ph tmp] }

/-- The same with every register zero and an operation at phase 0. -/
def fresh (i : Instr) : State := stateOf 0 0 0 0 (encode i) 0 0

/-- The result the last completed operation gave. -/
def result : Outcome → Option Result
  | .next t => t.completed.getLast?.map fun c => c.result
  | _ => none

/-- A property of the next state. -/
def after (x : Outcome) (p : State → Bool) : Bool :=
  match x with
  | .next t => p t
  | _ => false

/-- The result of running an operation alone in one step. -/
def gives (i : Instr) : Option Result := result (exec i (fresh i))

/-- The faults an operation leaves in one step. -/
def faultsOf (i : Instr) : Option (List FaultRecord) :=
  match exec i (fresh i) with
  | .next t => some t.faults
  | _ => none

/-- The events of a state, as direction, offset and value. -/
def events (t : State) : List (Dir × Nat × Word) := t.history.map fun e => (e.dir, e.off, e.value)

/-! ### Well-formed and ill-formed operations (R55, R56, R63) -/

theorem test_wf_refuses_uart_index :
    (Instr.uartBringup 6).wf 6 = false ∧ (Instr.uartPowerdown 15).wf 6 = false ∧ (Instr.uartBringup 5).wf 6 = true := by
  decide

theorem test_wf_refuses_spi_index :
    (Instr.spiBringup 2).wf 6 = false ∧ (Instr.spiPowerdown 2).wf 6 = false ∧
      (Instr.spiConfigure 2 .hosc 0 .n1).wf 6 = false ∧ (Instr.spiConfigure 1 .hosc 16 .n1).wf 6 = true := by
  decide

theorem test_codec_index_is_free : (Instr.spiGateMask 15 0).wf 1 = true := by decide

/-! ### Decoding, with words written out bit by bit from the formats R51 to R56 -/

theorem test_decode_bus :
    decode 6 0b0000_00000000000_0_0000_100100001100 .zero = .ok .rdUartBgr ∧
    decode 6 0b0000_00000000000_1_0000_100100001100 .zero = .ok (.wrUartBgr 0) ∧
    decode 6 0b0000_00000000000_0_0000_100101000000 .zero = .ok .rdSpiClk0 ∧
    decode 6 0b0000_00000000000_1_0000_100101000000 .zero = .ok (.wrSpiClk0 0) ∧
    decode 6 0b0000_00000000000_0_0000_100101000100 .zero = .ok .rdSpiClk1 ∧
    decode 6 0b0000_00000000000_1_0000_100101000100 .zero = .ok (.wrSpiClk1 0) ∧
    decode 6 0b0000_00000000000_0_0000_100101101100 .zero = .ok .rdSpiBgr ∧
    decode 6 0b0000_00000000000_1_0000_100101101100 .zero = .ok (.wrSpiBgr 0) := by decide

theorem test_decode_gcodec :
    decode 6 0b0001_0000_000000000000_0000_0000_1010 .zero = .ok (.uartGateMask 10 0) ∧
    decode 6 0b0001_0000_000000000000_0001_0000_0001 .zero = .ok (.uartGatePass 1 0) ∧
    decode 6 0b0001_0000_000000000000_0010_0000_0010 .zero = .ok (.uartAssertReset 2 0) ∧
    decode 6 0b0001_0000_000000000000_0011_0000_0100 .zero = .ok (.uartDeassertReset 4 0) ∧
    decode 6 0b0001_0000_000000000000_0100_0000_1000 .zero = .ok (.uartGateGet 8 0) ∧
    decode 6 0b0001_0000_000000000000_0101_0000_1111 .zero = .ok (.uartResetGet 15 0) ∧
    decode 6 0b0001_0001_000000000000_0000_0000_1010 .zero = .ok (.spiGateMask 10 0) ∧
    decode 6 0b0001_0001_000000000000_0001_0000_0001 .zero = .ok (.spiGatePass 1 0) ∧
    decode 6 0b0001_0001_000000000000_0010_0000_0010 .zero = .ok (.spiAssertReset 2 0) ∧
    decode 6 0b0001_0001_000000000000_0011_0000_1111 .zero = .ok (.spiDeassertReset 15 0) ∧
    decode 6 0b0001_0001_000000000000_0100_0000_1000 .zero = .ok (.spiGateGet 8 0) ∧
    decode 6 0b0001_0001_000000000000_0101_0000_1111 .zero = .ok (.spiResetGet 15 0) := by decide

theorem test_decode_scodec :
    decode 6 0b0010_0000000000000000_0000_00000000 ⟨7, 4, 9, 3⟩ = .ok (.spiclkSourceGet 7) ∧
    decode 6 0b0010_0000000000000000_0001_00000000 ⟨7, 4, 9, 3⟩ = .ok (.spiclkSourceSet 7 .pllAudio1Div5) ∧
    decode 6 0b0010_0000000000000000_0010_00000000 ⟨7, 4, 9, 3⟩ = .ok (.spiclkNGet 7) ∧
    decode 6 0b0010_0000000000000000_0011_00000000 ⟨7, 4, 9, 3⟩ = .ok (.spiclkNSet 7 .n8) ∧
    decode 6 0b0010_0000000000000000_0100_00000000 ⟨7, 4, 9, 3⟩ = .ok (.spiclkMGet 7) ∧
    decode 6 0b0010_0000000000000000_0101_00000000 ⟨7, 4, 99, 3⟩ = .ok (.spiclkMSet 7 99) := by decide

theorem test_decode_seq_and_cfg :
    decode 6 0b0011_0000_000000000000_0000_0000_0101 .zero = .ok (.uartBringup 5) ∧
    decode 6 0b0011_0000_000000000000_0001_0000_0101 .zero = .ok (.uartPowerdown 5) ∧
    decode 6 0b0011_0001_000000000000_0000_0000_0001 .zero = .ok (.spiBringup 1) ∧
    decode 6 0b0011_0001_000000000000_0001_0000_0001 .zero = .ok (.spiPowerdown 1) ∧
    decode 6 0b0100_0001_00000000000000000000_0001 ⟨0, 1, 4, 2⟩ = .ok (.spiConfigure 1 .pllPeri1x 4 .n4) := by decide

/-- Reserved fields and operands are refused by name: a must-be-zero bit in each class, KIND, FUNC, CLASS, an index, an
enumeration operand (R63, V-D3 to V-D10, V-Q9, V-Q10, V-C6). -/
theorem test_decode_refuses :
    decode 6 0x0002090C .zero = .error .descriptor ∧ decode 6 0x1000001A .zero = .error .descriptor ∧
    decode 6 0x30001000 .zero = .error .descriptor ∧ decode 6 0x30000200 .zero = .error .descriptor ∧
    decode 6 0x41000100 .zero = .error .descriptor ∧ decode 6 0x21000000 .zero = .error .descriptor ∧
    decode 6 0x41000002 .zero = .error .index ∧ decode 6 0x20000100 ⟨0, 5, 0, 0⟩ = .error .enum ∧
    decode 6 0x20000300 ⟨0, 0, 0, 4⟩ = .error .enum := by decide

/-- The host's two questions, for every row's word with zero in its open bits. -/
theorem test_rows_decode_and_run (k : Mnemonic) :
    (decodeTableWord 32 k.pattern.toNat).map (fun i => i.mnemonic) = some k ∧
      after (step (State.reset.withFetchWord 32 k.pattern.toNat)) (fun _ => true) = true := by
  cases k <;> decide

/-! ### Bus accesses -/

/-- V-B1, and the examples of R70, R72, R74. -/
theorem test_bus_reads :
    result (exec .rdUartBgr (stateOf 0x00010001 0 0 0 (encode .rdUartBgr) 0 0)) = some (.word 0x00010001) ∧
    result (exec .rdSpiClk0 (stateOf 0 0x01000204 0 0 (encode .rdSpiClk0) 0 0)) = some (.word 0x01000204) ∧
    result (exec .rdSpiClk1 (stateOf 1 2 0x80000000 4 (encode .rdSpiClk1) 0 0)) = some (.word 0x80000000) ∧
    result (exec .rdSpiBgr (stateOf 0 0 0 0x00020002 (encode .rdSpiBgr) 0 0)) = some (.word 0x00020002) := by decide

/-- V-B2 to V-B4: the one register changes, the others do not. -/
theorem test_bus_writes :
    after (exec (.wrUartBgr 0xFFFFFFFF) (fresh (.wrUartBgr 0xFFFFFFFF)))
      (fun t => t.uartBgr == 0xFFFFFFFF && t.spiBgr == 0) = true ∧
    after (exec (.wrSpiClk0 0x12345678) (fresh (.wrSpiClk0 0x12345678)))
      (fun t => t.spiClk0 == 0x12345678 && t.spiClk1 == 0) = true ∧
    after (exec (.wrSpiClk1 0x04000301) (stateOf 0 0x01000204 0 0 (encode (.wrSpiClk1 0x04000301)) 0 0))
      (fun t => t.spiClk1 == 0x04000301 && t.spiClk0 == 0x01000204) = true ∧
    after (exec (.wrSpiBgr 0) (stateOf 7 0 0 0x00030003 (encode (.wrSpiBgr 0)) 0 0))
      (fun t => t.spiBgr == 0 && t.uartBgr == 7) = true := by decide

/-- V-B2 under UNDEF_BITS = draw: the defined bits of 0x12345678 in `spi_clk` are 0x02000208. -/
theorem test_read_under_draw_keeps_defined_bits (fresh : Word) :
    readBack { params with undefBits := .draw } .spiClk0 0x12345678 fresh &&& 0x0700030F = 0x02000208 := by
  have h : (Reg.spiClk0.definedMask 6) = 0x0700030F#32 := rfl
  simp only [readBack, params, h, Bool.false_eq_true, if_false]
  ext i hi
  simp only [BitVec.getElem_and, BitVec.getElem_or, BitVec.getElem_not]
  interval_cases i <;> simp

/-- V-B5 to V-B8, and a place below CCU_BASE: no event, the agent stops. -/
theorem test_raw_accesses :
    after (rawRead 0x1910 4 (stateOf 0 0 0 0 (.rawRead 0x1910 4) 0 0))
      (fun t => t.faults == [⟨.unmapped, 0, .offset 0x910⟩] && t.history == []) = true ∧
    after (rawRead 0x190C 1 (stateOf 0 0 0 0 (.rawRead 0x190C 1) 0 0))
      (fun t => t.faults == [⟨.access, 0, .access 0x90C 1⟩]) = true ∧
    after (rawRead 0x190E 4 (stateOf 0 0 0 0 (.rawRead 0x190E 4) 0 0))
      (fun t => t.faults == [⟨.access, 0, .access 0x90E 4⟩]) = true ∧
    after (rawWrite 0x1970 4 5 (stateOf 0 0 0 0 (.rawWrite 0x1970 4 5) 0 0))
      (fun t => t.faults == [⟨.unmapped, 0, .offset 0x970⟩] && t.spiBgr == 0) = true ∧
    after (rawRead 0x0FFC 4 (stateOf 0 0 0 0 (.rawRead 0x0FFC 4) 0 0))
      (fun t => t.faults == [⟨.unmapped, 0, .offset (-4)⟩]) = true := by decide

/-- The numbers of the fault codes (R115). -/
theorem test_fault_code_numbers :
    [FaultCode.decodeSrc, .race, .precondM, .unmapped, .access].map FaultCode.number = [1, 2, 3, 4, 5] := by decide

/-! ### The gating codec: V-G1 to V-G15 and the examples of R77 to R88 -/

theorem test_uart_gate :
    gives (.uartGateMask 0 0x00030003) = some (.word 0x00030002) ∧ gives (.uartGateMask 3 0) = some (.word 0) ∧
    gives (.uartGatePass 15 0) = some (.word 0x00008000) ∧
    gives (.uartGatePass 1 0xA5A5A5A5) = some (.word 0xA5A5A5A7) := by decide

theorem test_uart_reset :
    gives (.uartAssertReset 15 0xFFFFFFFF) = some (.word 0x7FFFFFFF) ∧
    gives (.uartAssertReset 0 0xA5A5A5A5) = some (.word 0xA5A4A5A5) ∧
    gives (.uartDeassertReset 0 0) = some (.word 0x00010000) ∧
    gives (.uartDeassertReset 15 0) = some (.word 0x80000000) := by decide

theorem test_uart_getters :
    gives (.uartGateGet 2 0x00000004) = some (.bit true) ∧ gives (.uartGateGet 2 0xFFFFFFFB) = some (.bit false) ∧
    gives (.uartResetGet 5 0x00200000) = some (.bit true) ∧ gives (.uartResetGet 0 0xFFFEFFFF) = some (.bit false) := by
  decide

theorem test_spi_gating :
    gives (.spiGateMask 1 0xFFFFFFFF) = some (.word 0xFFFFFFFD) ∧
    gives (.spiGatePass 9 0) = some (.word 0x00000200) ∧
    gives (.spiAssertReset 0 0x00030003) = some (.word 0x00020003) ∧
    gives (.spiDeassertReset 1 0x00010001) = some (.word 0x00030001) ∧
    gives (.spiGateGet 0 0x00010001) = some (.bit true) ∧
    gives (.spiResetGet 1 0x00010001) = some (.bit false) := by decide

/-! ### The SPI clock codec: V-S1 to V-S12 -/

theorem test_source_get :
    gives (.spiclkSourceGet 0x08000000) = some (.source .hosc) ∧
    gives (.spiclkSourceGet 0x02FFFFFF) = some (.source .pllPeri2x) ∧
    faultsOf (.spiclkSourceGet 0xFF000000) = some [⟨.decodeSrc, 0, .source 7⟩] ∧
    faultsOf (.spiclkSourceGet 0x05000000) = some [⟨.decodeSrc, 0, .source 5⟩] := by decide

theorem test_setters :
    gives (.spiclkSourceSet 0xFFFFFFFF .pllAudio1Div5) = some (.word 0xFCFFFFFF) ∧
    gives (.spiclkSourceSet 0x07000000 .hosc) = some (.word 0) ∧
    gives (.spiclkNSet 0 .n8) = some (.word 0x00000300) ∧
    gives (.spiclkNSet 0xFFFFFFFF .n2) = some (.word 0xFFFFFDFF) ∧
    gives (.spiclkMSet 0xFFFFFFFF 0) = some (.word 0xFFFFFFF0) ∧ gives (.spiclkMSet 0 15) = some (.word 0xF) ∧
    faultsOf (.spiclkMSet 0 16) = some [⟨.precondM, 0, .divider 16⟩] := by decide

theorem test_n_and_m_getters :
    gives (.spiclkNGet 0x00000100) = some (.factorN .n2) ∧ gives (.spiclkNGet 0xFFFFFCFF) = some (.factorN .n1) ∧
    gives (.spiclkMGet 0x000000F0) = some (.factorM 0) ∧ gives (.spiclkMGet 0x000000FF) = some (.factorM 15) := by
  decide

/-! ### The sequencer and the configurator, phase by phase -/

/-- V-Q8: the undefined bits are copied. -/
theorem test_spi_bringup_phases :
    after (exec (.spiBringup 0) (stateOf 0 0 0 0xFFFCFFFC (encode (.spiBringup 0)) 0 0))
      (fun t => t.agents.map (fun a => (a.ph, a.tmp)) == [(1, 0xFFFCFFFC)]) = true ∧
    after (exec (.spiBringup 0) (stateOf 0 0 0 0xFFFCFFFC (encode (.spiBringup 0)) 3 0xFFFCFFFC))
      (fun t => t.spiBgr == 0xFFFDFFFD && t.agents.map (fun a => a.done) == [true]) = true := by decide

/-- V-Q2: the first write of a bring-up from Running. -/
theorem test_uart_bringup_phases :
    after (exec (.uartBringup 2) (stateOf 0x00050005 0 0 0 (encode (.uartBringup 2)) 1 0x00050005))
      (fun t => t.uartBgr == 0x00010001 && events t == [(.write, 0x90C, 0x00010001)]) = true ∧
    after (exec (.uartBringup 2) (stateOf 0x00010001 0 0 0 (encode (.uartBringup 2)) 3 0x00010001))
      (fun t => t.uartBgr == 0x00050005 && t.logicalState .uart 2 == .running) = true := by decide

/-- V-Q4 and V-Q7. -/
theorem test_powerdown_writes :
    after (exec (.uartPowerdown 0) (stateOf 0x00030003 0 0 0 (encode (.uartPowerdown 0)) 1 0x00030003))
      (fun t => t.uartBgr == 0x00020002 && t.logicalState .uart 1 == .running) = true ∧
    after (exec (.spiPowerdown 1) (stateOf 0 5 6 0x00030003 (encode (.spiPowerdown 1)) 1 0x00030003))
      (fun t => t.spiBgr == 0x00010001 && t.spiClk1 == 6) = true := by decide

/-- V-C2 and V-C5: the second phase. -/
theorem test_configure_writes :
    after (exec (.spiConfigure 0 .pllPeri1x 4 .n4)
      (stateOf 0 0xFFFFFFFF 0 0 (encode (.spiConfigure 0 .pllPeri1x 4 .n4)) 1 0xFFFFFFFF))
      (fun t => t.spiClk0 == 0xF9FFFEF4 && events t == [(.write, 0x940, 0xF9FFFEF4)]) = true ∧
    after (exec (.spiConfigure 1 .pllAudio1Div5 15 .n8)
      (stateOf 0 0x01000204 0x80000000 0 (encode (.spiConfigure 1 .pllAudio1Div5 15 .n8)) 1 0x80000000))
      (fun t => t.spiClk1 == 0x8400030F && t.spiClk0 == 0x01000204) = true := by decide

/-- V-C4: the fault comes before any access. -/
theorem test_configure_faults_first :
    after (exec (.spiConfigure 1 .hosc 16 .n1) (stateOf 0 0 0x12345678 0 (encode (.spiConfigure 1 .hosc 16 .n1)) 0 0))
      (fun t => t.spiClk1 == 0x12345678 && t.history == [] && t.faults == [⟨.precondM, 0, .divider 16⟩] &&
        t.agents.map (fun a => a.stopped) == [true]) = true := by decide

/-! ### Races, refusals, idle steps -/

/-- P3 with agent 0 past its first access (its window open) and agent 1 about to begin. -/
def raceState : State :=
  { stateOf 0 0 0 0 (encode (.uartBringup 0)) 3 0 with
    agents := [agentOf (encode (.uartBringup 0)) 3 0, { agentOf (encode (.uartBringup 1)) 0 0 with id := 1 }]
    sched := [1] }

/-- P3, step 4: B's first read inside A's window records F_RACE against B, and happens. -/
theorem test_race_is_recorded :
    after (step raceState) (fun t => t.faults == [⟨.race, 1, .race 0 0x90C⟩] && events t == [(.read, 0x90C, 0)]) = true := by
  decide

/-- A bus read outside any window records nothing. -/
theorem test_no_race_without_window :
    after (step { raceState with agents := [agentOf (encode (.uartBringup 0)) 0 0,
      { agentOf (encode .rdUartBgr) 0 0 with id := 1 }] }) (fun t => t.faults == []) = true := by decide

/-- A program with a refused operation anywhere, be it in its second agent's list, creates no agent (R121; V-Q9). -/
theorem test_refused_program :
    (match (State.resetWith params ⟨0, 0, 0, 0⟩).submit
        [(encode .rdUartBgr, []), (encode .rdSpiBgr, [.op 0x31000002 .zero])] with
      | .error .index => true
      | _ => false) = true := by decide

/-- An admitted program of two agents gets both. -/
theorem test_admitted_program :
    (match (State.resetWith params ⟨0, 0, 0, 0⟩).submit
        [(encode .rdUartBgr, []), (encode .rdSpiBgr, [.op 0x31000001 .zero])] with
      | .ok t => t.agents.map (fun a => (a.id, a.op, a.rest.length)) ==
          [(0, .op 0x0000090C .zero, 0), (1, .op 0x0000096C .zero, 1)]
      | .error _ => false) = true := by decide

/-- P4a: after the fault the agent's remaining write is never executed; the machine has nothing to do. -/
theorem test_stopped_agent_never_moves :
    after (step { stateOf 0 0x07000000 0 0 (encode (.spiclkSourceGet 0x07000000)) 0 0 with
        agents := [{ agentOf (encode (.spiclkSourceGet 0x07000000)) 0 0 with stopped := true, rest := [encode (.wrSpiClk0 0)] }] })
      (fun t => t.spiClk0 == 0x07000000 && t.history == []) = true := by decide

/-- The reset state does nothing. -/
theorem test_reset_is_idle : step State.reset = .next State.reset := rfl

/-! ### The text syntax (R65) -/

theorem test_text_lines :
    Asm.line "uart.reset 0" = .request (.op 0x30000000 .zero) ∧
    Asm.line "wr32 uart_bgr, 0x00030003" = .request (.op 0x0001090C { Operands.zero with v := 0x00030003 }) ∧
    Asm.line "uart.deassert_reset 15, 0" = .request (.op 0x1000030F .zero) ∧
    Asm.line "spiclk.set_source 0x07000000, hosc" = .request (.op 0x20000100 { Operands.zero with v := 0x07000000 }) ∧
    Asm.line "spi.config 0, hosc, 16, n1" = .request (.op 0x41000000 { Operands.zero with m := 16 }) ∧
    Asm.line "spi.reset 20" = .refused .index ∧ Asm.line "spi.config 2, hosc, 0, n1" = .refused .index ∧ Asm.line "rd32 spi_clk2" = .notALine ∧
    Asm.line "spiclk.m 0x100000000" = .notALine := by decide

end Sys2Proof.Tests
end

