-- ==== Sys2Proof/Tests/Witnesses.lean ====
section
/-! SUPPORT. For every statement with hypotheses, a concrete state and operands that meet all of them together, at a
boundary of each clause. -/

namespace Sys2Proof.Tests

open Sys2Proof Sys2Proof.Machine

/-- The state a run ends in. -/
def runTo (n : Nat) (s : State) : State :=
  match Host.Core.run Sys2Proof.core n s with
  | .next t => t
  | .fault _ => s
  | .refused _ => s

/-- The state a phase step ends in. -/
def execTo (i : Instr) (s : State) : State :=
  match exec i s with
  | .next t => t
  | .fault _ => s
  | .refused _ => s

/-- Agent 0 with an operation at a phase, in a state of `fresh`'s. -/
def atPhase (i : Instr) (ph : Nat) : State := stateOf 0 0 0 0 (encode i) ph 0

/-- Hypothesis `runs` at any phase: every statement about a phase step. -/
theorem witness_runs (i : Instr) (ph : Nat) : (atPhase i ph).runs (agentOf (encode i) ph 0) ph := ⟨rfl, rfl⟩

/-- `runs` for a raw access, with the three clauses of RawAccessesFaultOrAccess: width, alignment, padding, register. -/
theorem witness_raw_accesses :
    (∀ r : Request, (stateOf 0 0 0 0 r 0 0).runs (agentOf r 0 0) 0) ∧
      ((0x90E : Int) % 4 ≠ 0) ∧ ((0x910 : Int) % 4 = 0 ∧ (0x910 : Int) ∉ [0x90C, 0x940, 0x944, 0x96C]) ∧
      0x190C = params.ccuBase + Reg.uartBgr.off :=
  ⟨fun _ => ⟨rfl, rfl⟩, by decide, by decide, by decide⟩

theorem witness_well_formed : (Instr.uartBringup 5).wf 6 = true ∧ (Instr.spiConfigure 1 .hosc 16 .n1).wf 1 = true := by
  decide

theorem witness_admitted : decode 6 0x30000005 .zero = .ok (.uartBringup 5) := by decide

/-- DecoderGivesOneAnswer: no row; a BUS descriptor with another offset; a row with the first index out of range of
each kind; the first enumeration codes that are none; a row admitted at its last index. -/
theorem witness_decoder_clauses :
    (∀ k : Mnemonic, 0x50000000#32 &&& k.mask ≠ k.pattern) ∧
    ((0x00000910#32).extractLsb' 28 4 = 0 ∧ (0x00000910#32).extractLsb' 0 12 ∉ [0x90C#12, 0x940#12, 0x944#12, 0x96C#12]) ∧
    (0x30000006#32 &&& Mnemonic.uartBringup.mask = Mnemonic.uartBringup.pattern ∧ 6 ≤ ((0x30000006#32).extractLsb' 0 4).toNat) ∧
    (0x41000002#32 &&& Mnemonic.spiConfigure.mask = Mnemonic.spiConfigure.pattern ∧
      2 ≤ ((0x41000002#32).extractLsb' 0 4).toNat) ∧
    (0x20000100#32 &&& Mnemonic.spiclkSourceSet.mask = Mnemonic.spiclkSourceSet.pattern) ∧
    (0x41000001#32 &&& Mnemonic.spiConfigure.mask = Mnemonic.spiConfigure.pattern) := by
  refine ⟨fun k => ?_, by decide, by decide, by decide, by decide, by decide⟩
  cases k <;> decide

theorem witness_bits_in_range : 16 ≤ 16 ∧ 31 < 32 := by decide

/-- RegistersLieAtTheirOffsets: an address with no register byte, just past a register. -/
theorem witness_no_register_byte :
    ∀ r : Reg, ¬((fresh .rdUartBgr).params.ccuBase + r.off ≤ 0x1910 ∧ 0x1910 < (fresh .rdUartBgr).params.ccuBase + r.off + 4) := by
  intro r; cases r <;> decide

/-- TransformsOnDifferentBitsCommute: different bits (0 and 16 of one index), and one bit. -/
theorem witness_bits_of_transforms : (0#4).toNat + 0 ≠ (0#4).toNat + 16 ∧ (15#4).toNat + 16 = (15#4).toNat + 16 := by
  decide

/-- SourceGetDecodesOrFaults: a value of each code. -/
theorem witness_source_codes :
    [0#32, 0x01000000, 0x02000000, 0x03000000, 0x04000000, 0x05000000, 0x07000000].map (fun v => v.extractLsb' 24 3) =
      [0#3, 1, 2, 3, 4, 5, 7] ∧ decodeSrc 4 = some .pllAudio1Div5 ∧ (4#3).toNat ≤ 4 ∧ 5 ≤ (5#3).toNat := by decide

theorem witness_n_code : (0x00000300#32).extractLsb' 8 2 = encodeN .n8 := by decide

theorem witness_divider : 15 ≤ 15 ∧ 15 < 16 := by decide

/-- ClockFieldsRoundTrip: a value with an assigned source. -/
theorem witness_assigned_source :
    sourceGet 0x04000301 = some .pllAudio1Div5 ∧ ((0x04000301#32).extractLsb' 24 3).toNat ≤ 4 := by decide

theorem witness_codec : Instr.mnemonic (.spiclkMSet 0 16) ∈
    Mnemonic.all.filter (fun k => k.pattern.extractLsb' 28 4 = 1 ∨ k.pattern.extractLsb' 28 4 = 2) := by decide

/-- The last index of each kind, and the first out of range. -/
theorem witness_indices :
    (5#4).toNat < instances params .uart ∧ (1#4).toNat < instances params .spi ∧ (1#4).toNat < 2 ∧
      instances params .uart ≤ (6#4).toNat ∧ instances params .spi ≤ (2#4).toNat ∧ 2 ≤ (2#4).toNat := by decide

/-- Agent 0 about to run an operation, scheduled for its phases, beside an agent that reads another register. -/
def scheduledState (i : Instr) (sched : List Nat) : State :=
  { atPhase i 0 with agents := [agentOf (encode i) 0 0, { agentOf (encode .rdSpiClk0) 0 0 with id := 1 }], sched := sched }

theorem scheduled_ids (i : Instr) (l : List Nat) : (scheduledState i l).idsDistinct := by
  show [0, 1].Nodup
  decide

theorem scheduled_inv (i : Instr) (l : List Nat) (h : rejection params.nUart (encode i) = none := by decide) :
    (scheduledState i l).Inv := by
  refine ⟨show params.wf = true by decide, scheduled_ids i l, List.nodup_nil, fun a ha => ?_, fun a ha => ?_⟩ <;>
    rcases List.mem_cons.mp ha with rfl | ha
  · rfl
  · rcases List.mem_cons.mp ha with rfl | ha
    · rfl
    · cases ha
  · show firstRejection params.nUart [encode i] = none
    simp [firstRejection, h]
  · rcases List.mem_cons.mp ha with rfl | ha
    · show firstRejection params.nUart [encode .rdSpiClk0] = none
      decide
    · cases ha

/-- The hypotheses of SequencerEndState and SequencerEvents for a bring-up of the last UART, with another agent's access
to another register in between. -/
theorem witness_sequencer_bringup :
    let s := scheduledState (.uartBringup 5) [0, 0, 1, 0, 0]
    let t := runTo 5 s
    s.params.externalMutation = false ∧ s.idsDistinct ∧ (5#4).toNat < instances s.params .uart ∧
      Host.Core.run Sys2Proof.core 5 s = .next t ∧ t.history = s.history ++ t.history ∧
      (∀ e ∈ t.history, e.off = (bgr .uart).off → e.agent = 0) ∧ t.finished 0 ∧ s.starts 0 (bringupOf .uart 5) :=
  ⟨rfl, scheduled_ids _ _, by decide, rfl, rfl, by decide, ⟨_, rfl, rfl, rfl⟩,
    ⟨_, _, _, rfl, rfl, by decide, rfl, rfl, rfl, rfl⟩⟩

/-- The same for a power-down of the last SPI instance. -/
theorem witness_sequencer_powerdown :
    let s := scheduledState (.spiPowerdown 1) [0, 1, 0]
    let t := runTo 3 s
    s.params.externalMutation = false ∧ s.idsDistinct ∧ (1#4).toNat < instances s.params .spi ∧
      Host.Core.run Sys2Proof.core 3 s = .next t ∧ t.history = s.history ++ t.history ∧
      (∀ e ∈ t.history, e.off = (bgr .spi).off → e.agent = 0) ∧ t.finished 0 ∧ s.starts 0 (powerdownOf .spi 1) :=
  ⟨rfl, scheduled_ids _ _, by decide, rfl, rfl, by decide, ⟨_, rfl, rfl, rfl⟩,
    ⟨_, _, _, rfl, rfl, by decide, rfl, rfl, rfl, rfl⟩⟩

/-- The hypotheses of ConfigureEvents, at the largest divider. -/
theorem witness_configure_events :
    let s := scheduledState (.spiConfigure 1 .pllAudio1Div5 15 .n8) [0, 1, 0]
    let t := runTo 3 s
    s.idsDistinct ∧ s.starts 0 (.spiConfigure 1 .pllAudio1Div5 15 .n8) ∧ Host.Core.run Sys2Proof.core 3 s = .next t ∧
      t.history = s.history ++ t.history ∧ t.finished 0 :=
  ⟨scheduled_ids _ _, ⟨_, _, _, rfl, rfl, by decide, rfl, rfl, rfl, rfl⟩, rfl, rfl, ⟨_, rfl, rfl, rfl⟩⟩

/-- The hypotheses of the three clauses of OperationsFinishInTheirPhases. -/
theorem witness_operations_finish :
    (let s := scheduledState (.uartBringup 5) [0, 0, 0, 0, 1];
      s.Inv ∧ s.starts 0 (bringupOf .uart 5) ∧ s.sched = [0, 0, 0, 0, 1]) ∧
    (let s := scheduledState (.spiPowerdown 1) [0, 0];
      s.Inv ∧ s.starts 0 (powerdownOf .spi 1) ∧ s.sched = [0, 0]) ∧
    (let s := scheduledState (.spiConfigure 0 .hosc 15 .n1) [0, 0];
      s.Inv ∧ s.starts 0 (.spiConfigure 0 .hosc 15 .n1) ∧ s.sched = [0, 0]) :=
  ⟨⟨scheduled_inv _ _, ⟨_, _, _, rfl, rfl, by decide, rfl, rfl, rfl, rfl⟩, rfl⟩,
    ⟨scheduled_inv _ _, ⟨_, _, _, rfl, rfl, by decide, rfl, rfl, rfl, rfl⟩, rfl⟩,
    ⟨scheduled_inv _ _, ⟨_, _, _, rfl, rfl, by decide, rfl, rfl, rfl, rfl⟩, rfl⟩⟩

/-- LogicalStatesOfTheOperations: the phase steps it names answer a next state. -/
theorem witness_logical_states :
    (exec (bringupOf .uart 5) (atPhase (.uartBringup 5) 1) = .next (execTo (.uartBringup 5) (atPhase (.uartBringup 5) 1))) ∧
    (exec (bringupOf .spi 1) (atPhase (.spiBringup 1) 3) = .next (execTo (.spiBringup 1) (atPhase (.spiBringup 1) 3))) ∧
    (exec (powerdownOf .uart 0) (atPhase (.uartPowerdown 0) 1) =
      .next (execTo (.uartPowerdown 0) (atPhase (.uartPowerdown 0) 1))) ∧
    (exec (.spiConfigure 1 .hosc 15 .n1) (atPhase (.spiConfigure 1 .hosc 15 .n1) 1) =
      .next (execTo (.spiConfigure 1 .hosc 15 .n1) (atPhase (.spiConfigure 1 .hosc 15 .n1) 1))) :=
  ⟨rfl, rfl, rfl, rfl⟩

/-- The hypotheses of HandBuiltBringupEqualsTheSequencer and RaceLosesAnUpdate. -/
theorem witness_one_register_programs :
    params.undefBits = .storage ∧ params.externalMutation = false ∧ (5#4).toNat < params.nUart ∧
      (0#4).toNat < params.nUart ∧ (5#4 ≠ 0#4) := by decide

/-- RacesAreRecorded: a step inside another agent's window; the new record is there. -/
theorem witness_race :
    ∃ u t e, raceState.nextTurn = some u ∧ step raceState = .next t ∧ t.history = raceState.history ++ [e] ∧
      (∃ b ∈ u.agents, b.id ≠ u.turn ∧ Reg.uartBgr.off = e.off ∧ b.window u.params.nUart = some .uartBgr) ∧
      ∃ f ∈ t.faults, f ∉ raceState.faults ∧ f.code = .race :=
  ⟨_, runTo 1 raceState, _, rfl, rfl, rfl, ⟨agentOf (encode (.uartBringup 0)) 3 0, by decide, by decide, rfl, by decide⟩,
    ⟨.race, 1, .race 0 0x90C⟩, by decide, by decide, rfl⟩

/-- A state about to record a fault that stops its agent, with a fault in FAULTS already. -/
def faultState : State :=
  { stateOf 0 0 0 0 (encode (.spiclkMSet 0 16)) 0 0 with faults := [⟨.race, 3, .race 0 0x90C⟩] }

/-- FaultsOnlyGrow and FaultsArePrecise. -/
theorem witness_fault_step :
    step faultState = .next (runTo 1 faultState) ∧ faultState.faults ≠ [] ∧
      ∃ f ∈ (runTo 1 faultState).faults, f ∉ faultState.faults ∧ f.code ≠ .race :=
  ⟨rfl, by decide, ⟨.precondM, 0, .divider 16⟩, by decide, by decide, by decide⟩

/-- A stopped agent beside one that moves. -/
def stoppedState : State :=
  { scheduledState (.uartBringup 5) [1] with
    agents := [{ agentOf (encode (.uartBringup 5)) 0 0 with stopped := true }, { agentOf (encode .rdSpiClk0) 0 0 with id := 1 }] }

/-- StoppedAgentsStayStopped. -/
theorem witness_stopped_agent :
    stoppedState.idsDistinct ∧ step stoppedState = .next (runTo 1 stoppedState) ∧
      ∃ a ∈ stoppedState.agents, a.stopped = true :=
  ⟨by show [0, 1].Nodup; decide, rfl, _, List.mem_cons_self, rfl⟩

/-- RefusedProgramsHaveNoRun: the refused operation is the last of the second agent's list; a program without one; a
refused descriptor. -/
theorem witness_refused_program :
    (∃ e : Rejection, ∃ x ∈ ([(encode .rdUartBgr, []), (encode .rdSpiBgr, [.op 0x30000006 .zero])] : Program),
      ∃ d o, Request.op d o ∈ x.1 :: x.2 ∧ decode params.nUart d o = .error e) ∧
    (¬∃ e : Rejection, ∃ x ∈ ([(encode (.uartBringup 5), [])] : Program),
      ∃ d o, Request.op d o ∈ x.1 :: x.2 ∧ decode params.nUart d o = .error e) ∧
    0x30000006 < 2 ^ 32 ∧ decode params.nUart (BitVec.ofNat 32 0x30000006) .zero = .error .index := by
  refine ⟨⟨.index, _, List.mem_cons_of_mem _ List.mem_cons_self, 0x30000006, .zero, by decide, by decide⟩, ?_, by decide,
    by decide⟩
  rintro ⟨e, x, hx, d, o, hm, hd⟩
  obtain rfl := List.mem_singleton.mp hx
  rcases List.mem_cons.mp hm with h | h
  · injection h with h1 h2
    subst h1 h2
    have hok : decode params.nUart (encodeDesc (.uartBringup 5)) (encodeOperands (.uartBringup 5)) =
        .ok (.uartBringup 5) := by decide
    rw [hok] at hd
    cases hd
  · cases h

/-- ResetAndSubmitHaveTheInvariant: a program that is admitted. -/
theorem witness_submitted_program :
    (scheduledState (.uartBringup 5) []).Inv ∧
      ∃ t, (scheduledState (.uartBringup 5) []).submit [(encode (.spiBringup 1), [encode .rdSpiBgr])] = .ok t :=
  ⟨scheduled_inv _ _, _, rfl⟩

/-- StepRunsTheDecodedOperation: the next operation of a program begins. -/
theorem witness_step_runs :
    let a : Agent := { agentOf (encode .rdUartBgr) 0 7 with done := true, rest := [encode (.spiBringup 1), encode .rdSpiBgr] }
    let s := { fresh .rdUartBgr with agents := [a], sched := [0] }
    s.idsDistinct ∧ s.sched = [0] ∧ s.agent 0 = some a ∧
      a.begin = some { a with op := encode (.spiBringup 1), rest := [encode .rdSpiBgr], ph := 0, done := false } ∧
      decode s.params.nUart 0x31000001 .zero = .ok (.spiBringup 1) :=
  ⟨by show [0].Nodup; decide, rfl, rfl, rfl, by decide⟩

theorem witness_fetched_word : 0x31000001 < 2 ^ 32 ∧ decode 6 (BitVec.ofNat 32 0x31000001) .zero = .ok (.spiBringup 1) := by
  decide

/-- EveryStepKeepsTheInvariant, RunsNeverStopByThemselves, OneAccessPerStep, OtherAgentsAreUntouched,
EveryTurnMakesProgress and the second clause of RegistersHoldTheLastWrite. -/
theorem witness_invariant_step :
    let s := scheduledState (.uartBringup 5) [0]
    s.Inv ∧ params.wf = true ∧ step s = .next (runTo 1 s) ∧ (∃ u a, s.nextTurn = some u ∧ u.current = some a) ∧
      ∀ r, s.reg r = lastWritten s.history r (s.reg r) :=
  ⟨scheduled_inv _ _, by decide, rfl, ⟨_, _, rfl, rfl⟩, fun _ => rfl⟩

/-- A state about to read `spi_clk[1]`, with or without external mutation. -/
def readState (m : Bool) : State := { fresh .rdSpiClk1 with params := { params with externalMutation := m } }

/-- The event of its next step. -/
def readEvent (m : Bool) : Event :=
  { agent := 0, dir := .read, off := 0x944, value := if m then Config.draw 0 else 0 }

/-- The third clause of RegistersHoldTheLastWrite, without and with external mutation. -/
theorem witness_read_step (m : Bool) :
    step (readState m) = .next (runTo 1 (readState m)) ∧
      (runTo 1 (readState m)).history = (readState m).history ++ [readEvent m] ∧ (readEvent m).dir = .read ∧
      (readEvent m).off = Reg.spiClk1.off ∧ (readState m).params.externalMutation = m ∧
      (Reg.spiClk1.definedMask (readState m).params.nUart).getLsbD 26 = true := by
  cases m <;> exact ⟨rfl, rfl, rfl, rfl, rfl, rfl⟩

/-- A race stops nobody: the agent that intruded goes on (R117). -/
theorem test_race_stops_nobody :
    after (step raceState) (fun t => t.agents.map (fun a => (a.ph, a.stopped)) == [(3, false), (1, false)]) = true := by
  decide

end Sys2Proof.Tests
end

section
/-! PROOFS of the statements of 00_scope.md: a step leaves every agent but the one with the turn alone (R9, R27, R127),
and it keeps the machine's invariant (R7, R25, R27, R121). Both follow a step through its two halves: giving the turn,
and one phase step of the agent that has it. -/

namespace Sys2Proof.Machine

open Sys2Proof

/-! ### Changing the record with one number -/

/-- Two lists of agents with the same numbers in the same order, whose records agree except for those numbered `n`. -/
def agreeOutside (n : Nat) (old new : List Agent) : Prop :=
  new.map (fun a => a.id) = old.map (fun a => a.id) ∧
    new.filter (fun a => a.id != n) = old.filter (fun a => a.id != n)

theorem agreeOutside_trans {n : Nat} {l₁ l₂ l₃ : List Agent} (h : agreeOutside n l₁ l₂) (h' : agreeOutside n l₂ l₃) :
    agreeOutside n l₁ l₃ :=
  ⟨h'.1.trans h.1, h'.2.trans h.2⟩

section
variable {n : Nat} {f : Agent → Agent} {l : List Agent}

theorem agreeOutside_update (hf : ∀ x, x.id = n → (f x).id = n) :
    agreeOutside n l (l.map fun x => if x.id = n then f x else x) := by
  induction l with
  | nil => exact ⟨rfl, rfl⟩
  | cons x xs ih =>
    obtain ⟨hids, hrecords⟩ := ih
    by_cases hx : x.id = n
    · exact ⟨by simpa [hx, hf x hx] using hids, by simpa [hx, hf x hx] using hrecords⟩
    · exact ⟨by simpa [hx] using hids, by simpa [hx] using hrecords⟩

theorem forall_mem_update {P : Agent → Prop} (h : ∀ x ∈ l, P x) (hf : ∀ x ∈ l, x.id = n → P (f x)) :
    ∀ y ∈ l.map (fun x => if x.id = n then f x else x), P y := by
  intro y hy
  obtain ⟨x, hx, rfl⟩ := List.mem_map.mp hy
  by_cases hid : x.id = n
  · simpa only [hid, if_true] using hf x hx hid
  · simpa only [hid, if_false] using h x hx

end

/-- With different numbers, the record in flight is the only one with the number that has the turn. -/
theorem eq_current_of_id {s : State} {a x : Agent} (hids : s.idsDistinct) (ha : s.current = some a)
    (hx : x ∈ s.agents) (hid : x.id = s.turn) : x = a := by
  obtain ⟨hmem, hturn, -, -⟩ := current_spec ha
  exact List.inj_on_of_nodup_map hids hx hmem (hid.trans hturn.symm)

/-! ### Phase counters (R27) -/

/-- How many phases a request has; a raw access and a refused operation count as one step. -/
def Request.phaseCount (nUart : Nat) (r : Request) : Nat := ((Request.instr nUart r).map phases).getD 1

theorem phaseOk_iff {nUart : Nat} {a : Agent} :
    phaseOk nUart a = true ↔ a.done = true ∨ a.ph = 0 ∨ a.ph < Request.phaseCount nUart a.op := by
  cases hop : a.op with
  | op d o =>
    cases hd : decode nUart d o <;>
      simp [phaseOk, Request.phaseCount, Request.instr, Except.toOption, hop, hd, or_assoc]
  | rawRead addr width => simp [phaseOk, Request.phaseCount, Request.instr, hop]
  | rawWrite addr width v => simp [phaseOk, Request.phaseCount, Request.instr, hop]

theorem phaseOk_of_done {nUart : Nat} {a : Agent} (h : a.done = true) : phaseOk nUart a = true :=
  phaseOk_iff.mpr (.inl h)

theorem phaseOk_of_ph_zero {nUart : Nat} {a : Agent} (h : a.ph = 0) : phaseOk nUart a = true :=
  phaseOk_iff.mpr (.inr (.inl h))

/-- Beginning a step keeps the phase counter legal: a new operation begins at phase 0. -/
theorem begin_phaseOk {nUart : Nat} {a b : Agent} (h : a.begin = some b) (ha : phaseOk nUart a = true) :
    phaseOk nUart b = true := by
  obtain ⟨-, -, -, -, rfl | ⟨-, hph, -, -⟩⟩ := begin_cases h
  · exact ha
  · exact phaseOk_of_ph_zero hph

section
variable {nUart : Nat} {s : State}

theorem finish_phaseOk (h : ∀ x ∈ s.agents, phaseOk nUart x = true) (op : Request) (res : Result) :
    ∀ x ∈ (s.finish op res).agents, phaseOk nUart x = true :=
  forall_mem_update h fun _ _ _ => phaseOk_of_done rfl

theorem raise_phaseOk (h : ∀ x ∈ s.agents, phaseOk nUart x = true) (c : FaultCode) (info : FaultInfo) :
    ∀ x ∈ (s.raise c info).agents, phaseOk nUart x = true :=
  forall_mem_update h fun x hx _ => h x hx

theorem advance_phaseOk (h : ∀ x ∈ s.agents, phaseOk nUart x = true) (v : Word) {k : Nat}
    (hk : ∀ x ∈ s.agents, x.id = s.turn → k = 0 ∨ k < Request.phaseCount nUart x.op) :
    ∀ x ∈ (s.advance v k).agents, phaseOk nUart x = true :=
  forall_mem_update h fun x hx hid => phaseOk_iff.mpr (.inr (hk x hx hid))

end

/-! ### One phase step -/

section
variable {s t : State} {a : Agent} {n : Nat} {w : Option Reg}

theorem Effect.faults_nodup (e : Effect s a n w t) (h : s.faults.Nodup) : t.faults.Nodup := by
  cases e with
  | readOn r k => exact faultsAfter_nodup h r
  | writeOn r v k => exact faultsAfter_nodup h r
  | writeLast r v => exact faultsAfter_nodup h r
  | readLast r => exact faultsAfter_nodup h r
  | pure res => exact h
  | raise c x => exact addFault_nodup h _

/-- A phase step that goes on moves to a phase below the operation's `n`, and every other one leaves the counter alone,
resets it or ends the operation. -/
theorem Effect.phaseOk_agents {nUart : Nat} (e : Effect s a n w t) (h : ∀ x ∈ s.agents, phaseOk nUart x = true)
    (hn : ∀ x ∈ s.agents, x.id = s.turn → Request.phaseCount nUart x.op = n) :
    ∀ x ∈ t.agents, phaseOk nUart x = true := by
  cases e with
  | readOn r k hk hlt =>
    exact advance_phaseOk (s := s.afterRead r) h _ fun x hx hid => .inr ((hn x hx hid).symm ▸ hlt)
  | writeOn r v k hk hlt =>
    have hs : ∀ x ∈ (s.afterWrite r v).agents, phaseOk nUart x = true := by simpa using h
    refine advance_phaseOk hs _ fun x hx hid => .inr ?_
    rw [hn x (by simpa using hx) (by simpa using hid)]
    exact hlt
  | writeLast r v => exact finish_phaseOk (by simpa using h) a.op .unit
  | readLast r =>
    have hs := advance_phaseOk (s := s.afterRead r) h (s.readValue r) fun _ _ _ => .inl rfl
    exact finish_phaseOk hs a.op _
  | pure res => exact finish_phaseOk h a.op res
  | raise c x => exact raise_phaseOk h c x

/-- A phase step changes the record of its own agent only (R27). -/
theorem Effect.agreeOutside_agents (e : Effect s a n w t) : agreeOutside s.turn s.agents t.agents := by
  obtain ⟨-, f, hf, ht⟩ := e.frame
  rw [ht]
  exact agreeOutside_update fun x hx => (hf x).1.trans hx

/-- A phase step keeps what an agent has in flight and still has to run, so none of it becomes refused (R121). -/
theorem Effect.admitted_agents {nUart : Nat} (e : Effect s a n w t) (h : ∀ x ∈ s.agents, x.rejection nUart = none) :
    ∀ x ∈ t.agents, x.rejection nUart = none := by
  obtain ⟨-, f, hf, ht⟩ := e.frame
  rw [ht]
  refine forall_mem_update h fun x hx _ => ?_
  obtain ⟨-, hop, hrest⟩ := hf x
  simpa only [Agent.rejection, hop, hrest] using h x hx

/-- A phase step of the operation in flight keeps the invariant. -/
theorem Effect.inv (e : Effect s a n w t) (h : s.Inv) (ha : s.current = some a)
    (hn : Request.phaseCount s.params.nUart a.op = n) : t.Inv := by
  obtain ⟨⟨hparams, -, -, -⟩, -⟩ := e.frame
  have hturn : ∀ x ∈ s.agents, x.id = s.turn → Request.phaseCount s.params.nUart x.op = n :=
    fun x hx hid => eq_current_of_id h.ids ha hx hid ▸ hn
  refine ⟨hparams ▸ h.params, ?_, e.faults_nodup h.faults, hparams ▸ e.phaseOk_agents h.phases hturn,
    hparams ▸ e.admitted_agents h.admitted⟩
  unfold State.idsDistinct
  rw [e.agreeOutside_agents.1]
  exact h.ids

end

/-! ### Giving the turn -/

theorem nextTurn_agreeOutside {s u : State} (h : s.nextTurn = some u) : agreeOutside u.turn s.agents u.agents := by
  obtain ⟨a, -, b, -, -, hturn, hagents, -⟩ := nextTurn_spec h
  rw [hturn, hagents]
  exact agreeOutside_update fun _ _ => rfl

theorem nextTurn_inv {s u : State} (h : s.nextTurn = some u) (hs : s.Inv) : u.Inv := by
  obtain ⟨a, ha, b, hb, -, -, hagents, hparams, -, hfaults, -⟩ := nextTurn_spec h
  have hids : u.idsDistinct := by
    unfold State.idsDistinct
    rw [(nextTurn_agreeOutside h).1]
    exact hs.ids
  refine ⟨hparams ▸ hs.params, hids, hfaults ▸ hs.faults, ?_, ?_⟩
  · rw [hagents, hparams]
    exact forall_mem_update hs.phases fun _ _ _ => begin_phaseOk hb (hs.phases a ha)
  · rw [hagents, hparams]
    exact forall_mem_update hs.admitted fun _ _ _ => begin_admitted hb (hs.admitted a ha)

/-! ### One step of the machine -/

/-- What a step can do, down to its effect: nothing when no agent can move, or one phase step of the operation of the
agent that has the turn. -/
theorem step_effect {s t : State} (h : step s = .next t) :
    s.nextTurn = none ∧ t = s ∨
      ∃ u a, s.nextTurn = some u ∧ u.current = some a ∧
        Effect u a (Request.phaseCount u.params.nUart a.op)
          ((Request.instr u.params.nUart a.op).bind windowTarget) t := by
  obtain hnone | ⟨u, a, hu, ha, hrun⟩ := step_cases h
  · exact .inl hnone
  · obtain ⟨a', ha', e⟩ := runRequest_effect hrun
    obtain rfl : a = a' := Option.some.inj (ha.symm.trans ha')
    exact .inr ⟨u, a, hu, ha, e⟩

/-- Settles O51: giving the turn and the phase step each change only records with the number that has the turn, and
neither changes a number or a parameter. -/
theorem otherAgentsAreUntouched : Obligations.OtherAgentsAreUntouched := by
  intro s t h
  obtain ⟨-, rfl⟩ | ⟨u, a, hu, -, e⟩ := step_effect h
  · exact ⟨rfl, rfl, rfl⟩
  · obtain ⟨⟨hparams, -, hturn, -⟩, -⟩ := e.frame
    obtain ⟨-, -, -, -, -, -, -, huparams, -⟩ := nextTurn_spec hu
    refine ⟨hparams.trans huparams, ?_⟩
    rw [hturn]
    exact agreeOutside_trans (nextTurn_agreeOutside hu) e.agreeOutside_agents

/-- Settles O46: giving the turn keeps the invariant, and so does every effect of the operation in flight. -/
theorem everyStepKeepsTheInvariant : Obligations.EveryStepKeepsTheInvariant := by
  intro s t hs h
  obtain ⟨-, rfl⟩ | ⟨u, a, hu, ha, e⟩ := step_effect h
  · exact hs
  · exact e.inv (nextTurn_inv hu hs) ha rfl

end Sys2Proof.Machine
end

section
/-! PROOFS of the statements of 10_state.md: what the registers, their bits and the byte view are (R14 to R28, R33),
what one step can do to the registers, the history and FAULTS (R19, R25, R40, R48), and which operation a step runs and how
far it takes it (R27). A step is followed through its two halves, giving the turn and one phase step. -/

namespace Sys2Proof.Machine

open Sys2Proof

/-! ### The bits of a register (R14 to R18, R22, R28) -/

/-- The mask for `n` of a kind is `n` low ones, and the same again from bit 16 (R14). -/
theorem pairMask_bit {n k : Nat} (hn : n ≤ 16) (hk : k < 32) :
    (pairMask n).getLsbD k = true ↔ k < n ∨ 16 ≤ k ∧ k < 16 + n := by
  have hones : 2 ^ n - 1 < 2 ^ 16 :=
    Nat.lt_of_lt_of_le (Nat.sub_lt (Nat.two_pow_pos n) one_pos) (Nat.pow_le_pow_right two_pos hn)
  have hhalves : (2 ^ n - 1) * 0x10001 = 2 ^ 16 * (2 ^ n - 1) + (2 ^ n - 1) := by ring
  rw [pairMask, BitVec.getLsbD_ofNat, hhalves, Nat.testBit_two_pow_mul_add _ hones]
  simp only [hk, decide_true, Bool.true_and]
  split <;> rw [Nat.testBit_two_pow_sub_one, decide_eq_true_iff] <;> omega

/-- The defined bits of a clock register: M, N and CLK_SRC_SEL (R16). -/
theorem clockMask_bit : ∀ k < 32,
    ((0x0700030F : Word).getLsbD k = true ↔ k < 4 ∨ 8 ≤ k ∧ k < 10 ∨ 24 ≤ k ∧ k < 27) := by
  decide

theorem getField_eq_extractLsb' (v : Word) (o : Nat) {w : Nat} (hw : w < 32) : getField v o w = v.extractLsb' o w :=
  BitVec.eq_of_getLsbD_eq fun j _ => by rw [getField_bit v o w j hw, BitVec.getLsbD_extractLsb']

/-- Settles O8: each register's mask, bit by bit. -/
theorem definedBitsOfTheRegisters : Obligations.DefinedBitsOfTheRegisters := by
  intro n k hn hk
  refine ⟨pairMask_bit hn hk, pairMask_bit (n := nSpi) (by decide) hk, fun r hr => ?_⟩
  obtain rfl | rfl : r = .spiClk0 ∨ r = .spiClk1 := by simpa using hr
  · exact clockMask_bit k hk
  · exact clockMask_bit k hk

/-- Settles O10: the four values of the two bits. -/
theorem logicalStateOfTheBits : Obligations.LogicalStateOfTheBits := by
  intro s k idx
  simp only [State.logicalState, logicalStateOf, gateGet, resetGet, gbit, rbit]
  cases (s.reg (bgr k)).getLsbD idx.toNat <;> cases (s.reg (bgr k)).getLsbD (idx.toNat + 16) <;> rfl

/-- Settles O11: the gate outputs are bits by definition, and the fields of a clock register are slices of it. -/
theorem outputsAreRegisterBits : Obligations.OutputsAreRegisterBits := fun _ _ _ =>
  ⟨rfl, rfl, getField_eq_extractLsb' _ 24 (by decide), getField_eq_extractLsb' _ 24 (by decide),
    getField_eq_extractLsb' _ 8 (by decide), getField_eq_extractLsb' _ 8 (by decide),
    getField_eq_extractLsb' _ 0 (by decide), getField_eq_extractLsb' _ 0 (by decide)⟩

/-! ### The byte view (R24, R33, R38) -/

theorem regByte_off (r : Reg) : ∀ j : Nat, j < 4 → regByte ((r.off : Int) + (j : Int)) = some (r, j) := by
  cases r <;> decide

theorem regByte_eq_none {off : Int} (h : ∀ r : Reg, ¬((r.off : Int) ≤ off ∧ off < r.off + 4)) :
    regByte off = none := by
  simp only [regByte, Option.map_eq_none_iff, List.find?_eq_none, decide_eq_true_eq]
  exact fun r _ => h r

/-- Settles O9: a bus address less CCU_BASE is an offset, whatever the base is. -/
theorem registersLieAtTheirOffsets : Obligations.RegistersLieAtTheirOffsets := by
  refine ⟨⟨rfl, rfl, rfl, rfl⟩, fun s => ⟨fun r j hj => ?_, fun b hb => ?_⟩⟩
  · have hoff : ((s.params.ccuBase + r.off + j : Nat) : Int) - (s.params.ccuBase : Int) = (r.off : Int) + (j : Int) := by
      push_cast; ring
    simp only [State.byteAt, hoff, regByte_off r j hj, Option.map_some]
  · have hnone : regByte ((b : Int) - (s.params.ccuBase : Int)) = none :=
      regByte_eq_none fun r hr => hb r (by omega)
    simp only [State.byteAt, hnone, Option.map_none]

/-! ### The access of a step (R19, R40, R48) -/

/-- What a step from `s` to `t` does to the registers and the history: no access, one read or one write, by the agent
that has the turn in `t`. -/
inductive StepAccess (s t : State) : Prop
  | idle (hreg : ∀ q, t.reg q = s.reg q) (hhist : t.history = s.history)
  | read (r : Reg) (v : Word) (hv : s.mayRead r v) (hreg : ∀ q, t.reg q = s.reg q)
      (hhist : t.history = s.history ++ [{ agent := t.turn, dir := .read, off := r.off, value := v }])
  | write (r : Reg) (v : Word) (hsame : t.reg r = v) (hother : ∀ q, q ≠ r → t.reg q = s.reg q)
      (hhist : t.history = s.history ++ [{ agent := t.turn, dir := .write, off := r.off, value := v }])

theorem Effect.stepAccess {s t : State} {a : Agent} {n : Nat} {w : Option Reg} (e : Effect s a n w t) :
    StepAccess s t := by
  cases e with
  | readOn r k => exact .read r _ (readValue_mayRead s r) (by simp) rfl
  | writeOn r v k => exact .write r v (by simp) (fun q hq => by simp [State.afterWrite_reg_other s r q v hq]) (by simp)
  | writeLast r v => exact .write r v (by simp) (fun q hq => by simp [State.afterWrite_reg_other s r q v hq]) (by simp)
  | readLast r => exact .read r _ (readValue_mayRead s r) (by simp) rfl
  | pure res => exact .idle (by simp) rfl
  | raise c x => exact .idle (by simp) rfl

/-- Giving the turn touches no register, no draw and no event, so it makes no difference to the access. -/
theorem StepAccess.of_nextTurn {s u t : State} (hu : s.nextTurn = some u) (h : StepAccess u t) : StepAccess s t := by
  obtain ⟨-, -, -, -, -, -, -, hparams, hreg, -, hhist, -, hdrawn⟩ := nextTurn_spec hu
  cases h with
  | idle hr hh => exact .idle (fun q => (hr q).trans (hreg q)) (hh.trans hhist)
  | read r v hv hr hh =>
    refine .read r v ?_ (fun q => (hr q).trans (hreg q)) (hhist ▸ hh)
    simpa only [State.mayRead, hparams, hreg, hdrawn] using hv
  | write r v hsame hother hh =>
    exact .write r v hsame (fun q hq => (hother q hq).trans (hreg q)) (hhist ▸ hh)

theorem step_access {s t : State} (h : step s = .next t) : StepAccess s t := by
  obtain ⟨-, rfl⟩ | ⟨u, a, hu, -, e⟩ := step_effect h
  · exact .idle (fun _ => rfl) rfl
  · exact e.stepAccess.of_nextTurn hu

theorem lastWritten_append_read (h : List Event) (r q : Reg) (agent : Nat) (v before : Word) :
    lastWritten (h ++ [{ agent := agent, dir := .read, off := q.off, value := v }]) r before = lastWritten h r before := by
  simp [lastWritten]

theorem lastWritten_append_write_same (h : List Event) (r : Reg) (agent : Nat) (v before : Word) :
    lastWritten (h ++ [{ agent := agent, dir := .write, off := r.off, value := v }]) r before = v := by
  simp [lastWritten]

theorem lastWritten_append_write_other (h : List Event) {r q : Reg} (hrq : r ≠ q) (agent : Nat) (v before : Word) :
    lastWritten (h ++ [{ agent := agent, dir := .write, off := q.off, value := v }]) r before = lastWritten h r before := by
  have hoff : q.off ≠ r.off := fun h => hrq (off_injective h).symm
  simp [lastWritten, hoff]

/-- Every step keeps that the registers hold the last write of the history (R19). -/
theorem step_keeps_lastWritten {s t : State} {before : Reg → Word}
    (hs : ∀ r, s.reg r = lastWritten s.history r (before r)) (h : step s = .next t) (r : Reg) :
    t.reg r = lastWritten t.history r (before r) := by
  cases step_access h with
  | idle hreg hhist => rw [hreg, hhist, hs]
  | read q v hv hreg hhist => rw [hreg, hhist, lastWritten_append_read, hs]
  | write q v hsame hother hhist =>
    rw [hhist]
    by_cases hrq : r = q
    · rw [hrq, hsame, lastWritten_append_write_same]
    · rw [hother r hrq, lastWritten_append_write_other _ hrq, hs]

/-- A step whose event is a read got one of the values R19 and R20 allow. -/
theorem mayRead_of_read_event {s t : State} {e : Event} {r : Reg} (h : step s = .next t)
    (hhist : t.history = s.history ++ [e]) (hdir : e.dir = .read) (hoff : e.off = r.off) : s.mayRead r e.value := by
  cases step_access h with
  | idle hreg hh => simp [hh] at hhist
  | read q v hv hreg hh =>
    obtain rfl : _ = e := by simpa using hh.symm.trans hhist
    exact off_injective hoff ▸ hv
  | write q v hsame hother hh =>
    obtain rfl : _ = e := by simpa using hh.symm.trans hhist
    cases hdir

theorem State.mayRead.defined {s : State} {r : Reg} {v : Word} (h : s.mayRead r v)
    (hm : s.params.externalMutation = false) {k : Nat} (hk : (r.definedMask s.params.nUart).getLsbD k = true) :
    v.getLsbD k = (s.reg r).getLsbD k := by
  simpa [hm, hk] using h k (BitVec.lt_of_getLsbD hk)

theorem State.mayRead.mutated {s : State} {r : Reg} {v : Word} (h : s.mayRead r v)
    (hm : s.params.externalMutation = true) : v = Config.draw s.drawn :=
  BitVec.eq_of_getLsbD_eq fun k hk => by simpa [hm] using h k hk

/-- Settles O49: reset has no write yet, a step keeps the invariant through its one access, and a read is one that R19
allows. -/
theorem registersHoldTheLastWrite : Obligations.RegistersHoldTheLastWrite := by
  refine ⟨fun p v r => rfl, fun s t before hs h r => step_keeps_lastWritten hs h r, ?_⟩
  intro s t e r h hhist hdir hoff
  have hread : s.mayRead r e.value := mayRead_of_read_event h hhist hdir hoff
  exact ⟨fun hm k hk => hread.defined hm hk, hread.mutated⟩

/-- Settles O50: the three accesses a step can make. -/
theorem oneAccessPerStep : Obligations.OneAccessPerStep := by
  intro s t h
  cases step_access h with
  | idle hreg hhist => exact .inl ⟨hhist, hreg⟩
  | read r v hv hreg hhist => exact .inr ⟨_, r, hhist, rfl, rfl, fun _ => hreg, nofun⟩
  | write r v hsame hother hhist => exact .inr ⟨_, r, hhist, rfl, rfl, nofun, fun _ => ⟨hsame, hother⟩⟩

/-! ### FAULTS (R25) -/

theorem mem_faultsAfter_of_mem {s : State} (r : Reg) {f : FaultRecord} (hf : f ∈ s.faults) : f ∈ s.faultsAfter r :=
  (mem_faultsAfter s r f).mpr (.inl hf)

theorem Effect.faults_subset {s t : State} {a : Agent} {n : Nat} {w : Option Reg} (e : Effect s a n w t) :
    s.faults ⊆ t.faults := by
  intro f hf
  cases e with
  | readOn r k => exact mem_faultsAfter_of_mem r hf
  | writeOn r v k => exact mem_faultsAfter_of_mem r hf
  | writeLast r v => exact mem_faultsAfter_of_mem r hf
  | readLast r => exact mem_faultsAfter_of_mem r hf
  | pure res => exact hf
  | raise c x => exact (mem_addFault _ _ _).mpr (.inl hf)

theorem step_faults_subset {s t : State} (h : step s = .next t) : s.faults ⊆ t.faults := by
  obtain ⟨-, rfl⟩ | ⟨u, a, hu, -, e⟩ := step_effect h
  · exact List.Subset.refl _
  · obtain ⟨-, -, -, -, -, -, -, -, -, hfaults, -⟩ := nextTurn_spec hu
    exact hfaults ▸ e.faults_subset

/-- Settles O40: no effect removes a record, and a final state is one without a fault. -/
theorem faultsOnlyGrow : Obligations.FaultsOnlyGrow :=
  ⟨fun _ _ => rfl, fun _ _ h _ hf => step_faults_subset h hf, fun _ hne hfinal => hne hfinal.1⟩

/-! ### The progress of a turn (R27, R145) -/

/-- With different numbers, an agent's record is the one with its number. -/
theorem agent_eq_some_iff {s : State} (hids : s.idsDistinct) {id : Nat} {a : Agent} :
    s.agent id = some a ↔ a ∈ s.agents ∧ a.id = id := by
  refine ⟨agent_mem, fun ⟨hmem, hid⟩ => ?_⟩
  obtain ⟨b, hb⟩ : ∃ b, s.agent id = some b :=
    Option.isSome_iff_exists.mp (List.find?_isSome.mpr ⟨a, hmem, by simpa using hid⟩)
  obtain ⟨hbmem, hbid⟩ := agent_mem hb
  rwa [List.inj_on_of_nodup_map hids hmem hbmem (hid.trans hbid.symm)]

theorem forall_updated_of_id {n : Nat} {f : Agent → Agent} {l : List Agent} {P : Agent → Prop}
    (hf : ∀ x, P (f x)) : ∀ y ∈ l.map (fun x => if x.id = n then f x else x), y.id = n → P y := by
  intro y hy hid
  obtain ⟨x, -, rfl⟩ := List.mem_map.mp hy
  by_cases hx : x.id = n
  · simpa only [hx, if_true] using hf x
  · simp only [hx, if_false] at hid

/-- The agent with record `b` is stopped, has its operation done, or is at the phase after `ph`. -/
def Agent.movedOn (ph : Nat) (b : Agent) : Prop := b.stopped = true ∨ b.done = true ∨ b.ph = ph + 1

/-- No phase step leaves its agent where it was. -/
theorem Effect.movedOn {s t : State} {a : Agent} {n : Nat} {w : Option Reg} (e : Effect s a n w t) :
    ∀ b ∈ t.agents, b.id = t.turn → b.movedOn a.ph := by
  cases e with
  | readOn r k hk => exact forall_updated_of_id fun _ => .inr (.inr hk)
  | writeOn r v k hk => exact forall_updated_of_id fun _ => .inr (.inr hk)
  | writeLast r v => exact forall_updated_of_id fun _ => .inr (.inl rfl)
  | readLast r => exact forall_updated_of_id fun _ => .inr (.inl rfl)
  | pure res => exact forall_updated_of_id fun _ => .inr (.inl rfl)
  | raise c x => exact forall_updated_of_id fun _ => .inl rfl

/-- After a phase step of the operation in flight its agent has the same operation and program, and has moved on. -/
theorem Effect.agent_movedOn {s t : State} {a : Agent} {n : Nat} {w : Option Reg} (e : Effect s a n w t)
    (hids : s.idsDistinct) (ha : s.current = some a) :
    ∃ b, t.agent a.id = some b ∧ b.op = a.op ∧ b.rest = a.rest ∧ b.movedOn a.ph := by
  obtain ⟨⟨-, -, hturn, -⟩, f, hf, hagents⟩ := e.frame
  obtain ⟨hmem, hid, -, -⟩ := current_spec ha
  obtain ⟨hfid, hfop, hfrest⟩ := hf a
  have hfmem : f a ∈ t.agents := hagents ▸ List.mem_map.mpr ⟨a, hmem, if_pos hid⟩
  have htids : t.idsDistinct := by
    unfold State.idsDistinct
    rw [e.agreeOutside_agents.1]
    exact hids
  exact ⟨f a, (agent_eq_some_iff htids).mpr ⟨hfmem, hfid⟩, hfop, hfrest,
    e.movedOn _ hfmem (hfid.trans (hid.trans hturn.symm))⟩

/-- Settles O52: the step is a phase step of the agent that was given the turn. -/
theorem everyTurnMakesProgress : Obligations.EveryTurnMakesProgress := by
  intro s u t a hs hu ha h
  obtain ⟨hnone, -⟩ | ⟨u', a', hu', ha', e⟩ := step_effect h
  · cases hnone.symm.trans hu
  · obtain rfl : u = u' := Option.some.inj (hu.symm.trans hu')
    obtain rfl : a = a' := Option.some.inj (ha.symm.trans ha')
    exact e.agent_movedOn (nextTurn_inv hu hs).ids ha

/-! ### Which operation a step runs (R27, R40, R49) -/

/-- The schedule's first agent gets the turn when it can move (log 5). -/
theorem nextTurn_of_sched {s : State} {id : Nat} {l : List Nat} {a b : Agent} (hsched : s.sched = id :: l)
    (ha : s.agent id = some a) (hb : a.begin = some b) : s.nextTurn = some (s.giveTurn b l) := by
  simp [State.nextTurn, hsched, State.scheduled, State.beginAgent, ha, hb]

theorem runTurn_eq_exec {u : State} {a : Agent} {d : Word} {o : Operands} {i : Instr} (ha : u.current = some a)
    (hop : a.op = .op d o) (hd : decode u.params.nUart d o = .ok i) : runTurn u = exec i u := by
  simp [runTurn, ha, runRequest, hop, hd]

/-- The step of the schedule's first agent is `exec` of its decoded operation, in the state where it has the turn. -/
theorem step_eq_exec_of_sched {s : State} {id : Nat} {l : List Nat} {a b : Agent} {d : Word} {o : Operands} {i : Instr}
    (hsched : s.sched = id :: l) (ha : s.agent id = some a) (hb : a.begin = some b) (hop : b.op = .op d o)
    (hd : decode s.params.nUart d o = .ok i) :
    (s.giveTurn b l).current = some b ∧ step s = exec i (s.giveTurn b l) := by
  have hcurrent : (s.giveTurn b l).current = some b := giveTurn_current (agent_mem ha).1 hb l
  refine ⟨hcurrent, ?_⟩
  rw [step, nextTurn_of_sched hsched ha hb]
  exact runTurn_eq_exec hcurrent hop hd

theorem giveTurn_keepsRegisters (s : State) (a : Agent) (l : List Nat) : s.keepsRegisters (s.giveTurn a l) :=
  ⟨s.giveTurn_reg a l, byteAt_congr rfl (s.giveTurn_reg a l)⟩

/-- Settles O44: the state in which the operation runs is the one where its agent was given the turn. -/
theorem stepRunsTheDecodedOperation : Obligations.StepRunsTheDecodedOperation := by
  intro s id l a b d o i _ hsched ha hb hop hd
  obtain ⟨hcurrent, hstep⟩ := step_eq_exec_of_sched hsched ha hb hop hd
  obtain ⟨-, hbid, -⟩ := begin_cases hb
  have hid : b.id = id := hbid.trans (agent_mem ha).2
  exact ⟨s.giveTurn b l, hcurrent, hid, rfl, giveTurn_keepsRegisters s b l, rfl, rfl, rfl, rfl, rfl, rfl,
    by rw [State.giveTurn_agents, hid], hstep⟩

/-- The number a new agent gets finds its record, whatever the numbers of the others are. -/
theorem spawn_agent_freshId (s : State) (r : Request) (rest : List Request) : (s.spawn r rest).agent s.freshId =
    some { id := s.freshId, op := r, rest := rest, ph := 0, tmp := 0, done := false, stopped := false } := by
  have hnew : s.agents.find? (fun a => a.id == s.freshId) = none :=
    List.find?_eq_none.mpr fun a ha => by simpa using (lt_freshId ha).ne
  simp [State.agent, hnew]

/-- Settles O45: the new agent is the schedule's first and begins its only operation at phase 0. -/
theorem fetchedWordRunsNext : Obligations.FetchedWordRunsNext := by
  intro s w i hw hd
  rw [withFetchWord_ok hw hd]
  obtain ⟨hcurrent, hstep⟩ := step_eq_exec_of_sched
    (s := { s.spawn (.op (BitVec.ofNat 32 w) .zero) [] with sched := s.freshId :: s.sched })
    rfl (spawn_agent_freshId s _ _) rfl rfl hd
  have hreg := s.spawn_reg (.op (BitVec.ofNat 32 w) .zero) []
  exact ⟨_, _, ⟨hcurrent, rfl⟩, ⟨hreg, byteAt_congr rfl hreg⟩, rfl, rfl, rfl, hstep⟩

end Sys2Proof.Machine
end

section
/-! PROOFS of the statements of 20_memory.md: what a bus read and a raw access do (R34 to R37), which windows are open
(R44), which F_RACE records a step adds (R44, R117), and the race of P3 (R45), followed step by step through the few
fields it turns on. -/

namespace Sys2Proof.Machine

open Sys2Proof

/-! ### A single read or write of a register (R35, R36) -/

/-- The last read of an operation, in the terms of Safety; both single-access reads end so. -/
theorem readsLast_next (s : State) (a : Agent) (r : Reg) :
    s.readsLast (.next (((s.afterRead r).advance (s.readValue r) 0).finish a.op (.word (s.readValue r)))) a r := by
  refine ⟨_, s.readValue r, rfl, didRead_of rfl rfl rfl rfl rfl (by simp) rfl rfl, rfl, ?_⟩
  simp only [State.turnBecomes, State.finish_agents, State.advance_agents, State.advance_turn, State.afterRead_agents,
    State.afterRead_turn, List.map_map]
  refine List.map_congr_left fun x _ => ?_
  by_cases hx : x.id = s.turn <;> simp [hx]

/-- The last write of an operation, in the terms of Safety. -/
theorem writesLast_next (s : State) (a : Agent) (r : Reg) (v : Word) :
    s.writesLast (.next ((s.afterWrite r v).finish a.op .unit)) a r v := by
  have hother : ∀ q, q ≠ r → ((s.afterWrite r v).finish a.op .unit).reg q = s.reg q := fun q hq => by
    simp [State.afterWrite_reg_other s r q v hq]
  exact ⟨_, rfl, didWrite_of (by simp) (by simp) (by simp) (by simp) (by simp) (by simp) hother rfl (by simp),
    by simp [State.reports], by simp [State.turnBecomes]⟩

/-- A fault that stops its agent, in the terms of Safety. -/
theorem raises_next (s : State) (code : FaultCode) (info : FaultInfo) :
    s.raises (.next (s.raise code info)) code info :=
  ⟨_, rfl, raise_noAccess s code info, rfl, mem_addFault _ _, rfl⟩

theorem busRead_readsLast {s : State} {a : Agent} (h : s.runs a 0) (r : Reg) : s.readsLast (busRead r.off s) a r := by
  rw [busRead_runs h]
  exact readsLast_next s a r

/-- Settles O13: each of the four is the bus read at its register's offset. -/
theorem busReadsGiveTheRegister : Obligations.BusReadsGiveTheRegister := by
  intro x hx
  obtain rfl | rfl | rfl | rfl : x = (Instr.rdUartBgr, Reg.uartBgr, 0x0000090C#32) ∨
      x = (.rdSpiClk0, .spiClk0, 0x00000940#32) ∨ x = (.rdSpiClk1, .spiClk1, 0x00000944#32) ∨
      x = (.rdSpiBgr, .spiBgr, 0x0000096C#32) := by simpa using hx
  · exact ⟨fun _ _ => rfl, fun s a h => busRead_readsLast h .uartBgr⟩
  · exact ⟨fun _ _ => rfl, fun s a h => busRead_readsLast h .spiClk0⟩
  · exact ⟨fun _ _ => rfl, fun s a h => busRead_readsLast h .spiClk1⟩
  · exact ⟨fun _ _ => rfl, fun s a h => busRead_readsLast h .spiBgr⟩

/-! ### Raw accesses (R34, R37, R119) -/

section
variable {s : State} {a : Agent} {addr width : Nat}

theorem selectReg_badAccess {p : Params} (h : width ≠ 4 ∨ ((addr : Int) - (p.ccuBase : Int)) % 4 ≠ 0) :
    selectReg p addr width = .error (.access, .access ((addr : Int) - (p.ccuBase : Int)) width) := by
  simp only [selectReg, h, if_true]

theorem regAt_eq_none {off : Int} (h : off ∉ [0x90C, 0x940, 0x944, 0x96C]) : regAt off = none := by
  refine List.find?_eq_none.mpr fun r _ hr => h ?_
  obtain rfl : (r.off : Int) = off := eq_of_beq hr
  cases r <;> decide

theorem selectReg_unmapped {p : Params} (hw : width = 4) (h4 : ((addr : Int) - (p.ccuBase : Int)) % 4 = 0)
    (hoff : (addr : Int) - (p.ccuBase : Int) ∉ [0x90C, 0x940, 0x944, 0x96C]) :
    selectReg p addr width = .error (.unmapped, .offset ((addr : Int) - (p.ccuBase : Int))) := by
  simp [selectReg, hw, h4, regAt_eq_none hoff]

theorem rawRead_raises (h : s.runs a 0) {e : FaultCode × FaultInfo} (hs : selectReg s.params addr width = .error e) :
    s.raises (rawRead addr width s) e.1 e.2 := by
  rw [rawRead, oneStep_runs h, memRead_error hs]
  exact raises_next s e.1 e.2

theorem rawWrite_raises (h : s.runs a 0) (v : Word) {e : FaultCode × FaultInfo}
    (hs : selectReg s.params addr width = .error e) : s.raises (rawWrite addr width v s) e.1 e.2 := by
  rw [rawWrite, oneStep_runs h, memWrite_error hs]
  exact raises_next s e.1 e.2

theorem rawRead_readsLast (h : s.runs a 0) (r : Reg) :
    s.readsLast (rawRead (s.params.ccuBase + r.off) 4 s) a r := by
  rw [rawRead, oneStep_runs h, memRead_ok (selectReg_register s.params r), h.2]
  exact readsLast_next s a r

theorem rawWrite_writesLast (h : s.runs a 0) (r : Reg) (v : Word) :
    s.writesLast (rawWrite (s.params.ccuBase + r.off) 4 v s) a r v := by
  rw [rawWrite, oneStep_runs h, memWrite_ok (selectReg_register s.params r)]
  exact writesLast_next s a r v

/-- A raw access at a place the address decode does not admit raises that fault, whichever its direction. -/
theorem rawAccess_raises (h : s.runs a 0) (v : Word) {e : FaultCode × FaultInfo}
    (hs : selectReg s.params addr width = .error e) :
    ∀ x ∈ [runRequest (.rawRead addr width) s, runRequest (.rawWrite addr width v) s], s.raises x e.1 e.2 :=
  List.forall_mem_cons.mpr ⟨rawRead_raises h hs, List.forall_mem_singleton.mpr (rawWrite_raises h v hs)⟩

end

/-- Settles O15: the address decode says which of the three a raw access is. -/
theorem rawAccessesFaultOrAccess : Obligations.RawAccessesFaultOrAccess := by
  intro s a addr width v h off x hx
  refine ⟨fun hbad => rawAccess_raises h v (selectReg_badAccess hbad) x hx,
    fun hw h4 hoff => rawAccess_raises h v (selectReg_unmapped hw h4 hoff) x hx, ?_⟩
  rintro r rfl rfl
  exact ⟨rawRead_readsLast h r, rawWrite_writesLast h r v⟩

/-! ### Windows (R44) -/

theorem withSource_ok {code : Nat} {k : SpiClockSource → Except Rejection Instr} {i : Instr}
    (h : withSource code k = .ok i) : ∃ src, k src = .ok i := by
  unfold withSource at h
  split at h
  · exact ⟨_, h⟩
  · cases h

theorem withFactorN_ok {code : Nat} {k : FactorN → Except Rejection Instr} {i : Instr}
    (h : withFactorN code k = .ok i) : ∃ n, k n = .ok i := by
  unfold withFactorN at h
  split at h
  · exact ⟨_, h⟩
  · cases h

/-- A row's index check is the operation's, once its operands are admitted. -/
theorem build_indexOk {k : Mnemonic} {idx : BitVec 4} {o : Operands} {i : Instr} (h : k.build idx o = .ok i)
    (nUart : Nat) : k.indexOk nUart idx = i.wf nUart := by
  cases k <;> simp only [Mnemonic.build] at h
  case spiclkSourceSet => obtain ⟨src, h⟩ := withSource_ok h; cases h; rfl
  case spiclkNSet => obtain ⟨n, h⟩ := withFactorN_ok h; cases h; rfl
  case spiConfigure =>
    obtain ⟨src, h⟩ := withSource_ok h
    obtain ⟨n, h⟩ := withFactorN_ok h
    cases h; rfl
  all_goals cases h; rfl

/-- Whatever the decoder gives is well formed (R63). -/
theorem decode_wf {nUart : Nat} {d : Word} {o : Operands} {i : Instr} (h : decode nUart d o = .ok i) :
    i.wf nUart = true := by
  unfold decode at h
  split at h
  · cases h
  · split at h
    · rename_i k _ hk
      exact build_indexOk h nUart ▸ hk
    · cases h

/-- An index below the number of SPI instances is 0 or 1 (R6). -/
theorem eq_zero_or_one_of_lt_nSpi {idx : BitVec 4} (h : idx.toNat < nSpi) : idx = 0 ∨ idx = 1 := by
  revert idx; decide

/-- The register of a well-formed operation's window, kind by kind. -/
theorem windowTarget_eq_some_iff {nUart : Nat} {i : Instr} (hi : i.wf nUart = true) (r : Reg) :
    windowTarget i = some r ↔
      (∃ idx, i = .uartBringup idx ∨ i = .uartPowerdown idx) ∧ r = .uartBgr ∨
      (∃ idx, i = .spiBringup idx ∨ i = .spiPowerdown idx) ∧ r = .spiBgr ∨
      (∃ src m n, i = .spiConfigure 0 src m n) ∧ r = .spiClk0 ∨
      (∃ src m n, i = .spiConfigure 1 src m n) ∧ r = .spiClk1 := by
  cases i
  case spiConfigure idx src m n =>
    obtain rfl | rfl := eq_zero_or_one_of_lt_nSpi (of_decide_eq_true hi) <;> simp [windowTarget, eq_comm]
  all_goals simp [windowTarget, eq_comm]

/-- An agent's window is that of its decoded operation, while that is past phase 0 and not done. -/
theorem window_eq_some_iff {nUart : Nat} {a : Agent} {r : Reg} :
    a.window nUart = some r ↔ a.done = false ∧ 0 < a.ph ∧
      ∃ d o i, a.op = .op d o ∧ decode nUart d o = .ok i ∧ windowTarget i = some r := by
  unfold Agent.window
  split
  · rename_i hclosed
    simp only [Bool.or_eq_true, beq_iff_eq] at hclosed
    refine iff_of_false nofun ?_
    rintro ⟨hdone, hph, -⟩
    cases hclosed <;> simp_all
  · rename_i hopen
    simp only [Bool.or_eq_true, beq_iff_eq, not_or, Bool.not_eq_true] at hopen
    obtain ⟨hdone, hph⟩ := hopen
    cases hop : a.op with
    | op d o => cases hd : decode nUart d o <;> simp [hdone, Nat.pos_of_ne_zero hph, hd]
    | rawRead addr width => simp
    | rawWrite addr width v => simp

/-- Settles O37: the window is the decoded operation's, and only the multi-access operations have a target. -/
theorem windowsOfOperations : Obligations.WindowsOfOperations := by
  intro nUart a r
  rw [window_eq_some_iff]
  refine and_congr_right fun _ => and_congr_right fun _ => ?_
  refine exists_congr fun d => exists_congr fun o => exists_congr fun i => ?_
  exact and_congr_right fun _ => and_congr_right fun hd => windowTarget_eq_some_iff (decode_wf hd) r

/-! ### The F_RACE records of a step (R44, R117) -/

/-- What a phase step does to FAULTS as far as F_RACE goes: one access to a register with the records of that access, or
no access and no new F_RACE. -/
inductive RaceStep (s t : State) : Prop
  | access (r : Reg) (e : Event) (hoff : e.off = r.off) (hhist : t.history = s.history ++ [e])
      (hfaults : t.faults = s.faultsAfter r)
  | quiet (hhist : t.history = s.history) (hfaults : ∀ f ∈ t.faults, f.code = .race → f ∈ s.faults)

section
variable {s t : State}

/-- A fault of the address decode is not F_RACE (R34, R37). -/
theorem selectReg_error_ne_race {p : Params} {addr width : Nat} {e : FaultCode × FaultInfo}
    (h : selectReg p addr width = .error e) : e.1 ≠ .race := by
  simp only [selectReg] at h
  split at h
  · cases h; nofun
  · split at h <;> cases h; nofun

theorem raise_raceStep {c : FaultCode} (hc : c ≠ .race) (x : FaultInfo) : RaceStep s (s.raise c x) := by
  refine .quiet rfl fun f hf hrace => ?_
  obtain hf | rfl := (mem_addFault _ _ _).mp hf
  · exact hf
  · exact absurd hrace hc

theorem memRead_raceStep {addr width : Nat} {k : Word → State → Outcome} (h : memRead addr width s k = .next t)
    (hk : ∀ v u, k v u = .next t → t.history = u.history ∧ t.faults = u.faults) : RaceStep s t := by
  cases hs : selectReg s.params addr width with
  | ok r =>
    rw [memRead_ok hs] at h
    obtain ⟨hhist, hfaults⟩ := hk _ _ h
    exact .access r _ rfl hhist hfaults
  | error e =>
    rw [memRead_error hs] at h
    cases h
    exact raise_raceStep (selectReg_error_ne_race hs) e.2

theorem memWrite_raceStep {addr width : Nat} {v : Word} {k : State → Outcome} (h : memWrite addr width v s k = .next t)
    (hk : ∀ u, k u = .next t → t.history = u.history ∧ t.faults = u.faults) : RaceStep s t := by
  cases hs : selectReg s.params addr width with
  | ok r =>
    rw [memWrite_ok hs] at h
    obtain ⟨hhist, hfaults⟩ := hk _ h
    exact .access r _ rfl hhist hfaults
  | error e =>
    rw [memWrite_error hs] at h
    cases h
    exact raise_raceStep (selectReg_error_ne_race hs) e.2

/-- The agent's own record and its report are all that an operation changes after its access. -/
theorem next_keeps {u u' t : State} (h : Host.Outcome.next u' = (.next t : Outcome)) (hhist : u'.history = u.history)
    (hfaults : u'.faults = u.faults) : t.history = u.history ∧ t.faults = u.faults := by
  cases h
  exact ⟨hhist, hfaults⟩

theorem rawRead_raceStep {addr width : Nat} (h : rawRead addr width s = .next t) : RaceStep s t := by
  obtain ⟨a, -, h⟩ := oneStep_next h
  exact memRead_raceStep h fun v u h => next_keeps h rfl rfl

theorem rawWrite_raceStep {addr width : Nat} {v : Word} (h : rawWrite addr width v s = .next t) : RaceStep s t := by
  obtain ⟨a, -, h⟩ := oneStep_next h
  exact memWrite_raceStep h fun u h => next_keeps h rfl rfl

theorem pureOp_raceStep {res : Result} (h : pureOp res s = .next t) : RaceStep s t := by
  obtain ⟨a, -, h⟩ := oneStep_next h
  cases h
  exact .quiet rfl fun _ hf _ => hf

theorem oneStep_raise_raceStep {c : FaultCode} {x : FaultInfo} (hc : c ≠ .race)
    (h : oneStep s (fun _ => .next (s.raise c x)) = .next t) : RaceStep s t := by
  obtain ⟨a, -, h⟩ := oneStep_next h
  cases h
  exact raise_raceStep hc x

theorem bringup_raceStep {off : Nat} {idx : BitVec 4} (h : bringup off idx s = .next t) : RaceStep s t := by
  obtain ⟨a, -, h⟩ := inFlight_next h
  split at h
  · exact memRead_raceStep h fun v u h => next_keeps h rfl rfl
  · exact memWrite_raceStep h fun u h => next_keeps h rfl rfl
  · exact memRead_raceStep h fun v u h => next_keeps h rfl rfl
  · exact memWrite_raceStep h fun u h => next_keeps h rfl rfl
  · cases h

theorem powerdown_raceStep {off : Nat} {idx : BitVec 4} (h : powerdown off idx s = .next t) : RaceStep s t := by
  obtain ⟨a, -, h⟩ := inFlight_next h
  split at h
  · exact memRead_raceStep h fun v u h => next_keeps h rfl rfl
  · exact memWrite_raceStep h fun u h => next_keeps h rfl rfl
  · cases h

theorem configure_raceStep {off : Nat} {src : SpiClockSource} {m : Nat} {n : FactorN}
    (h : configure off src m n s = .next t) : RaceStep s t := by
  obtain ⟨a, -, h⟩ := inFlight_next h
  split at h
  · split at h
    · cases h; exact raise_raceStep (by decide) _
    · exact memRead_raceStep h fun v u h => next_keeps h rfl rfl
  · exact memWrite_raceStep h fun u h => next_keeps h rfl rfl
  · cases h

/-- A bus operation is the raw access at its offset, so the four reads and the four writes need no lemma of their own. -/
theorem exec_raceStep {i : Instr} (h : exec i s = .next t) : RaceStep s t := by
  cases i with
  | rdUartBgr | rdSpiClk0 | rdSpiClk1 | rdSpiBgr => exact rawRead_raceStep h
  | wrUartBgr v | wrSpiClk0 v | wrSpiClk1 v | wrSpiBgr v => exact rawWrite_raceStep h
  | uartBringup idx | spiBringup idx => exact bringup_raceStep (checkIndex_next h).2
  | uartPowerdown idx | spiPowerdown idx => exact powerdown_raceStep (checkIndex_next h).2
  | spiConfigure idx src m n => exact configure_raceStep (checkIndex_next h).2
  | spiclkSourceGet v =>
    simp only [exec, execSpiclkSourceGet] at h
    split at h
    · exact pureOp_raceStep h
    · exact oneStep_raise_raceStep (by decide) h
  | spiclkMSet v m =>
    simp only [exec, execSpiclkMSet] at h
    split at h
    · exact oneStep_raise_raceStep (by decide) h
    · exact pureOp_raceStep h
  | uartGateMask | uartGatePass | uartAssertReset | uartDeassertReset | uartGateGet | uartResetGet | spiGateMask
  | spiGatePass | spiAssertReset | spiDeassertReset | spiGateGet | spiResetGet | spiclkSourceSet | spiclkNGet | spiclkNSet
  | spiclkMGet => exact pureOp_raceStep h

theorem runRequest_raceStep {r : Request} (h : runRequest r s = .next t) : RaceStep s t := by
  cases r with
  | op d o =>
    simp only [runRequest] at h
    split at h
    · exact exec_raceStep h
    · cases h
  | rawRead addr width => exact rawRead_raceStep h
  | rawWrite addr width v => exact rawWrite_raceStep h

theorem step_raceStep {u : State} (hu : s.nextTurn = some u) (h : step s = .next t) : RaceStep u t := by
  obtain ⟨hnone, -⟩ | ⟨u', a, hu', -, hrun⟩ := step_cases h
  · cases hnone.symm.trans hu
  · obtain rfl : u = u' := Option.some.inj (hu.symm.trans hu')
    exact runRequest_raceStep hrun

end

/-- Settles O38: an access adds the records of `faultsAfter`, one for each window it falls in, and nothing else adds
one. -/
theorem racesAreRecorded : Obligations.RacesAreRecorded := by
  intro s u t hu h
  obtain ⟨-, -, -, -, -, -, -, -, -, hsfaults, hshist, -⟩ := nextTurn_spec hu
  rw [← hsfaults, ← hshist]
  cases step_raceStep hu h with
  | access r e hoff hhist hfaults =>
    refine ⟨fun e' he' b hb hne ⟨q, hq, hwin⟩ => ?_, fun f hf hnew _ => ?_⟩
    · obtain rfl : e = e' := by simpa using hhist.symm.trans he'
      obtain rfl : q = r := off_injective (hq.trans hoff)
      rw [hfaults, mem_faultsAfter, hoff]
      exact .inr ⟨b, hb, hne, hwin, rfl⟩
    · rw [hfaults, mem_faultsAfter] at hf
      obtain ⟨b, hb, hne, hwin, rfl⟩ := hf.resolve_left hnew
      exact ⟨e, b, r.off, hhist, hb, hne, hoff.symm, ⟨r, rfl, hwin⟩, rfl⟩
  | quiet hhist hfaults =>
    exact ⟨fun e he => by simp [hhist] at he, fun f hf hnew hrace => absurd (hfaults f hf hrace) hnew⟩

/-! ### The race of P3 (R45) -/

/-- The value a bring-up writes first and a power-down writes, bit by bit (R106). -/
theorem holdInReset_heldBits (idx : BitVec 4) (v : Word) : heldBits idx v (holdInReset idx v) := by
  intro k hk
  simp only [holdInReset, assertReset, gateMask, clrBit_bit _ _ k hk, gbit, rbit]
  by_cases hg : k = idx.toNat <;> by_cases hr : k = idx.toNat + 16 <;> simp [hg, hr]

/-- The value a bring-up writes last, bit by bit (R106). -/
theorem letRun_runningBits (idx : BitVec 4) (v : Word) : runningBits idx v (letRun idx v) := by
  intro k hk
  simp only [letRun, deassertReset, gatePass, setBit_bit _ _ k hk, gbit, rbit]
  by_cases hg : k = idx.toNat <;> by_cases hr : k = idx.toNat + 16 <;> simp [hg, hr]

section
variable {idx : BitVec 4} {v w : Word}

theorem heldBits.logicalState (h : heldBits idx v w) : logicalStateOf w idx = .heldInReset := by
  have hgate : gateGet idx w = false := (h idx.toNat (by omega)).trans (if_pos (.inl rfl))
  have hreset : resetGet idx w = false := (h (idx.toNat + 16) (by omega)).trans (if_pos (.inr rfl))
  simp only [logicalStateOf, hgate, hreset]

theorem runningBits.logicalState (h : runningBits idx v w) : logicalStateOf w idx = .running := by
  have hgate : gateGet idx w = true := (h idx.toNat (by omega)).trans (if_pos (.inl rfl))
  have hreset : resetGet idx w = true := (h (idx.toNat + 16) (by omega)).trans (if_pos (.inr rfl))
  simp only [logicalStateOf, hgate, hreset]

/-- Words that agree in every bit but the two of index `idx` give every other index the same state (R22). -/
theorem logicalStateOf_congr {i : BitVec 4} (hi : i ≠ idx)
    (h : ∀ k, k < 32 → ¬(k = idx.toNat ∨ k = idx.toNat + 16) → w.getLsbD k = v.getLsbD k) :
    logicalStateOf w i = logicalStateOf v i := by
  have hne : i.toNat ≠ idx.toNat := fun heq => hi (BitVec.eq_of_toNat_eq heq)
  have hgate : gateGet i w = gateGet i v := h i.toNat (by omega) (by omega)
  have hreset : resetGet i w = resetGet i v := h (i.toNat + 16) (by omega) (by omega)
  simp only [logicalStateOf, hgate, hreset]

theorem heldBits.logicalState_other (h : heldBits idx v w) {i : BitVec 4} (hi : i ≠ idx) :
    logicalStateOf w i = logicalStateOf v i :=
  logicalStateOf_congr hi fun k hk hk' => (h k hk).trans (if_neg hk')

theorem runningBits.logicalState_other (h : runningBits idx v w) {i : BitVec 4} (hi : i ≠ idx) :
    logicalStateOf w i = logicalStateOf v i :=
  logicalStateOf_congr hi fun k hk hk' => (h k hk).trans (if_neg hk')

end

theorem decode_uartBringup {nUart : Nat} {idx : BitVec 4} (h : idx.toNat < nUart) :
    decode nUart (encodeDesc (.uartBringup idx)) .zero = .ok (.uartBringup idx) :=
  (decode_row nUart .uartBringup idx .zero rfl).trans (if_pos (decide_eq_true h))

/-- The record of an agent whose program is one bring-up of the UART with index `idx`. -/
def bringupAgent (id : Nat) (idx : BitVec 4) (ph : Nat) (tmp : Word) (done : Bool) : Agent :=
  { id := id, op := encode (.uartBringup idx), rest := [], ph := ph, tmp := tmp, done := done, stopped := false }

theorem bringupAgent_window {nUart : Nat} {idx : BitVec 4} (h : idx.toNat < nUart) (id ph : Nat) (tmp : Word)
    (done : Bool) : (bringupAgent id idx ph tmp done).window nUart = if done || ph == 0 then none else some .uartBgr := by
  simp only [Agent.window, bringupAgent, encode, encodeOperands, decode_uartBringup h, windowTarget]

/-- FAULTS after agent `id` accesses `uart_bgr` beside one other agent, `y`, with a bring-up in flight. -/
def faultsBeside (id : Nat) (y : Agent) (fs : List FaultRecord) : List FaultRecord :=
  if y.done || y.ph == 0 then fs else addFault fs { code := .race, agent := id, info := .race y.id 0x90C }

/-- A point of a race of two bring-ups: the machine has the agents `x` and `y` in one order or the other, and nothing
else matters but the parameters, the schedule, the register and FAULTS. -/
structure State.AtRace (s : State) (p : Params) (sched : List Nat) (w : Word) (x y : Agent) (fs : List FaultRecord) :
    Prop where
  params : s.params = p
  sched : s.sched = sched
  word : s.uartBgr = w
  agents : s.agents = [x, y] ∨ s.agents = [y, x]
  faults : s.faults = fs
  ids : x.id ≠ y.id

section
variable {p : Params} {s : State} {l : List Nat} {w tmp tmp' : Word} {x y : Agent} {fs : List FaultRecord}

theorem State.AtRace.swap (h : s.AtRace p l w x y fs) : s.AtRace p l w y x fs :=
  ⟨h.params, h.sched, h.word, h.agents.symm, h.faults, h.ids.symm⟩

theorem State.AtRace.agent (h : s.AtRace p l w x y fs) : s.agent x.id = some x := by
  obtain hxy | hyx := h.agents
  · simp [State.agent, hxy]
  · simp [State.agent, hyx, h.ids.symm]

/-- Changing the record of the first agent of the two. -/
theorem State.AtRace.map_agents (h : s.AtRace p l w x y fs) {n : Nat} (hn : n = x.id) (f : Agent → Agent) :
    (s.agents.map fun a => if a.id = n then f a else a) = [f x, y] ∨
      (s.agents.map fun a => if a.id = n then f a else a) = [y, f x] := by
  subst hn
  obtain hxy | hyx := h.agents
  · exact .inl (by simp [hxy, h.ids.symm])
  · exact .inr (by simp [hyx, h.ids.symm])

/-- The only agent beside the first is the second. -/
theorem State.AtRace.filter_others (h : s.AtRace p l w x y fs) (q : Agent → Bool) :
    (s.agents.filter fun b => b.id != x.id && q b) = [y].filter q := by
  obtain hxy | hyx := h.agents
  · simp [hxy, List.filter_cons, h.ids.symm]
  · simp [hyx, List.filter_cons, h.ids.symm]

end

/-- What an access of `x` makes of FAULTS when the other agent runs a bring-up. -/
theorem State.AtRace.faultsAfter {p : Params} {s : State} {l : List Nat} {w tmp : Word} {x : Agent}
    {fs : List FaultRecord} {id ph : Nat} {j : BitVec 4} {done : Bool}
    (h : s.AtRace p l w x (bringupAgent id j ph tmp done) fs) (hturn : s.turn = x.id) (hj : j.toNat < p.nUart) :
    s.faultsAfter .uartBgr = faultsBeside x.id (bringupAgent id j ph tmp done) fs := by
  rw [State.faultsAfter, State.raceRecords, hturn, h.params, h.filter_others, h.faults, List.filter_singleton,
    bringupAgent_window hj, faultsBeside]
  change _ = if done || ph == 0 then _ else _
  cases done || ph == 0 <;> rfl

section
variable {p : Params} {s : State} {l : List Nat} {w tmp tmp' : Word} {m n : Nat} {i j : BitVec 4} {k k' : Nat}
  {done : Bool} {fs : List FaultRecord}

/-- The schedule's first agent, at a phase of its bring-up, gets the turn and runs that phase. -/
theorem State.AtRace.turn (h : s.AtRace p (m :: l) w (bringupAgent m i k tmp false) (bringupAgent n j k' tmp' done) fs)
    (hi : i.toNat < p.nUart) :
    ∃ u, u.AtRace p l w (bringupAgent m i k tmp false) (bringupAgent n j k' tmp' done) fs ∧ u.turn = m ∧
      u.runs (bringupAgent m i k tmp false) k ∧ step s = bringup Reg.uartBgr.off i u := by
  have hd : decode s.params.nUart (encodeDesc (.uartBringup i)) .zero = .ok (.uartBringup i) :=
    decode_uartBringup (h.params ▸ hi)
  obtain ⟨hcurrent, hstep⟩ := step_eq_exec_of_sched h.sched h.agent rfl rfl hd
  have hat : (s.giveTurn (bringupAgent m i k tmp false) l).AtRace p l w (bringupAgent m i k tmp false)
      (bringupAgent n j k' tmp' done) fs :=
    ⟨h.params, rfl, h.word, h.map_agents rfl fun _ => bringupAgent m i k tmp false, h.faults, h.ids⟩
  exact ⟨_, hat, rfl, ⟨hcurrent, rfl⟩, hstep.trans (if_pos (decide_eq_true (h.params ▸ hi)))⟩

/-- A read of the bring-up (R102): the agent takes the register's value to the next phase. -/
theorem State.AtRace.read (h : s.AtRace p (m :: l) w (bringupAgent m i k tmp false) (bringupAgent n j k' tmp' done) fs)
    (hu : p.undefBits = .storage) (hm : p.externalMutation = false) (hi : i.toNat < p.nUart) (hj : j.toNat < p.nUart)
    (hk : k = 0 ∨ k = 2) :
    ∃ t, step s = .next t ∧ t.AtRace p l w (bringupAgent m i (k + 1) w false) (bringupAgent n j k' tmp' done)
      (faultsBeside m (bringupAgent n j k' tmp' done) fs) := by
  obtain ⟨u, hat, hturn, hruns, hstep⟩ := h.turn hi
  have hv : u.readValue .uartBgr = w :=
    (readValue_storage (hat.params ▸ hm) (hat.params ▸ hu) .uartBgr).trans hat.word
  have hread : step s = .next ((u.afterRead .uartBgr).advance w (k + 1)) := by
    obtain rfl | rfl := hk
    · rw [hstep, bringup_read hruns, hv]
    · rw [hstep, bringup_reread hruns, hv]
  exact ⟨_, hread, hat.params, hat.sched, hat.word, hat.map_agents hturn _, hat.faultsAfter hturn hj, hat.ids⟩

/-- The first write of the bring-up (R102). -/
theorem State.AtRace.hold (h : s.AtRace p (m :: l) w (bringupAgent m i 1 tmp false) (bringupAgent n j k' tmp' done) fs)
    (hi : i.toNat < p.nUart) (hj : j.toNat < p.nUart) :
    ∃ t, step s = .next t ∧ t.AtRace p l (holdInReset i tmp) (bringupAgent m i 2 tmp false)
      (bringupAgent n j k' tmp' done) (faultsBeside m (bringupAgent n j k' tmp' done) fs) := by
  obtain ⟨u, hat, hturn, hruns, hstep⟩ := h.turn hi
  exact ⟨_, hstep.trans (bringup_hold hruns .uartBgr i), hat.params, hat.sched, rfl, hat.map_agents hturn _,
    hat.faultsAfter hturn hj, hat.ids⟩

/-- The last write of the bring-up, after which it is done (R102). -/
theorem State.AtRace.release
    (h : s.AtRace p (m :: l) w (bringupAgent m i 3 tmp false) (bringupAgent n j k' tmp' done) fs)
    (hi : i.toNat < p.nUart) (hj : j.toNat < p.nUart) :
    ∃ t, step s = .next t ∧ t.AtRace p l (letRun i tmp) (bringupAgent m i 3 tmp true)
      (bringupAgent n j k' tmp' done) (faultsBeside m (bringupAgent n j k' tmp' done) fs) := by
  obtain ⟨u, hat, hturn, hruns, hstep⟩ := h.turn hi
  exact ⟨_, hstep.trans (bringup_release hruns .uartBgr i), hat.params, hat.sched, rfl, hat.map_agents hturn _,
    hat.faultsAfter hturn hj, hat.ids⟩

end

theorem run_succ_of_step {s t : State} (h : step s = .next t) (n : Nat) :
    Host.Core.run Sys2Proof.core (n + 1) s = Host.Core.run Sys2Proof.core n t := by
  simp only [Host.Core.run, Sys2Proof.core, h]

/-- Submitting the program of P3 puts its two agents at the start of their bring-ups. -/
theorem submit_race {s : State} {i j : BitVec 4} (hi : i.toNat < s.params.nUart) (hj : j.toNat < s.params.nUart) :
    s.submit [(encode (.uartBringup i), []), (encode (.uartBringup j), [])] =
      .ok ((s.spawn (encode (.uartBringup i)) []).spawn (encode (.uartBringup j)) []) := by
  refine submit_ok.mpr ⟨?_, rfl⟩
  simp [Program.rejection, firstRejection, rejection, encode, encodeOperands, decode_uartBringup hi,
    decode_uartBringup hj]

/-- The eight steps of P3: each agent takes the value it releases before either has released, so the last write, the
second agent's, undoes the first one's. -/
theorem race_run {p : Params} {s : State} {v : Word} {i j : BitVec 4} (hu : p.undefBits = .storage)
    (hm : p.externalMutation = false) (hi : i.toNat < p.nUart) (hj : j.toNat < p.nUart)
    (h : s.AtRace p [0, 0, 0, 1, 1, 1, 0, 1] v (bringupAgent 0 i 0 0 false) (bringupAgent 1 j 0 0 false) []) :
    ∃ t, Host.Core.run Sys2Proof.core 8 s = .next t ∧
      t.AtRace p [] (letRun j (holdInReset j (holdInReset i v))) (bringupAgent 0 i 3 (holdInReset i v) true)
        (bringupAgent 1 j 3 (holdInReset j (holdInReset i v)) true)
        [{ code := .race, agent := 1, info := .race 0 0x90C }, { code := .race, agent := 0, info := .race 1 0x90C }] := by
  obtain ⟨s₁, step₁, h⟩ := h.read hu hm hi hj (.inl rfl)
  obtain ⟨s₂, step₂, h⟩ := h.hold hi hj
  obtain ⟨s₃, step₃, h⟩ := h.read hu hm hi hj (.inr rfl)
  obtain ⟨s₄, step₄, h⟩ := h.swap.read hu hm hj hi (.inl rfl)
  obtain ⟨s₅, step₅, h⟩ := h.hold hj hi
  obtain ⟨s₆, step₆, h⟩ := h.read hu hm hj hi (.inr rfl)
  obtain ⟨s₇, step₇, h⟩ := h.swap.release hi hj
  obtain ⟨s₈, step₈, h⟩ := h.swap.release hj hi
  refine ⟨s₈, ?_, h.swap⟩
  rw [run_succ_of_step step₁, run_succ_of_step step₂, run_succ_of_step step₃, run_succ_of_step step₄,
    run_succ_of_step step₅, run_succ_of_step step₆, run_succ_of_step step₇, run_succ_of_step step₈]
  rfl

/-- Settles O39: the final word lets the second index run over a word that holds both. -/
theorem raceLosesAnUpdate : Obligations.RaceLosesAnUpdate := by
  intro p v i j hu hm hi hj hij
  obtain ⟨t, hrun, ht⟩ := race_run hu hm hi hj (v := v.uartBgr)
    (s := { ((State.resetWith p v).spawn (encode (.uartBringup i)) []).spawn (encode (.uartBringup j)) [] with
      sched := [0, 0, 0, 1, 1, 1, 0, 1] }) ⟨rfl, rfl, rfl, .inl rfl, rfl, Nat.zero_ne_one⟩
  have hstate (idx : BitVec 4) :
      t.logicalState .uart idx = logicalStateOf (letRun j (holdInReset j (holdInReset i v.uartBgr))) idx :=
    congrArg (logicalStateOf · idx) ht.word
  refine ⟨_, t, submit_race hi hj, hrun, ⟨_, ht.agent, rfl, rfl⟩, ⟨_, ht.swap.agent, rfl, rfl⟩, ht.word,
    ?_, ?_, ht.faults⟩
  · rw [hstate, (letRun_runningBits j _).logicalState_other hij,
      (holdInReset_heldBits j _).logicalState_other hij, (holdInReset_heldBits i _).logicalState]
  · rw [hstate, (letRun_runningBits j _).logicalState]

end Sys2Proof.Machine
end

section
/-! PROOFS of the statements of 30_encoding.md: the match and mask rows and the field formats read a descriptor alike
(R50 to R57), the decoder's answers (R63), the encoder as its inverse (R57, R62), the text lines (R65), and the bring-up
built from single operations (R66). -/

namespace Sys2Proof

/-! ### The rows as sets of descriptors (R57) -/

theorem openMask_bit : ∀ j < 32, (0xFFFFFFF0 : Word).getLsbD j = decide (4 ≤ j) := by decide

theorem and_openMask_or_indexField (d : Word) : (d &&& 0xFFFFFFF0) ||| (indexField d).zeroExtend 32 = d := by
  refine BitVec.eq_of_getLsbD_eq fun j hj => ?_
  simp only [BitVec.getLsbD_or, BitVec.getLsbD_and, openMask_bit j hj, indexField, BitVec.truncate_eq_setWidth,
    BitVec.getLsbD_setWidth, BitVec.getLsbD_extractLsb', hj, Nat.zero_add]
  by_cases h : j < 4
  · simp [h]
  · simp [h, Nat.le_of_not_lt h]

theorem mask_cases (k : Mnemonic) : k.mask = 0xFFFFFFF0 ∨ k.mask = 0xFFFFFFFF := by
  cases k <;> decide

/-- The descriptors of a row are its match value with an index, which is zero where the row has no field I. -/
theorem match_iff_exists_index {d : Word} {k : Mnemonic} : d &&& k.mask = k.pattern ↔
    ∃ idx : BitVec 4, (k.mask = 0xFFFFFFF0 ∨ idx = 0) ∧ d = k.pattern ||| idx.zeroExtend 32 := by
  constructor
  · intro h
    obtain hk | hk := mask_cases k
    · exact ⟨indexField d, .inl hk, by rw [← h, hk, and_openMask_or_indexField]⟩
    · have hd : d = k.pattern := by rw [← h, hk]; exact BitVec.and_allOnes.symm
      exact ⟨0, .inr rfl, hd.trans BitVec.or_zero.symm⟩
  · rintro ⟨idx, hk, rfl⟩
    exact eq_of_beq (pattern_matches k idx hk)

/-- The decoder finds each row on all of its descriptors, so no two rows share one. -/
theorem decodeRow_eq_some_iff {d : Word} {k : Mnemonic} : decodeRow d = some k ↔ d &&& k.mask = k.pattern := by
  constructor
  · intro h
    have hmatch : k.matchesWord d = true := List.find?_some (p := fun k : Mnemonic => k.matchesWord d) h
    exact eq_of_beq hmatch
  · intro h
    obtain ⟨idx, hk, rfl⟩ := match_iff_exists_index.mp h
    exact decodeRow_row k idx hk

/-! ### The field formats (R50 to R56) -/

section
variable {d : Word} {k : Mnemonic}

theorem pattern_or_index_toNat {idx : BitVec 4} (h : k.mask = 0xFFFFFFF0 ∨ idx = 0) :
    (k.pattern ||| idx.zeroExtend 32).toNat = k.pattern.toNat + idx.toNat := by
  rcases h with h | rfl
  · revert idx; cases k <;> revert h <;> decide
  · cases k <;> decide

theorem match_of_toNat_eq {idx : BitVec 4} (hk : k.mask = 0xFFFFFFF0 ∨ idx = 0)
    (h : d.toNat = k.pattern.toNat + idx.toNat) : d &&& k.mask = k.pattern :=
  match_iff_exists_index.mpr ⟨idx, hk, BitVec.eq_of_toNat_eq (h.trans (pattern_or_index_toNat hk).symm)⟩

theorem toNat_eq_busFields (d : Word) : d.toNat =
    2 ^ 28 * (d.extractLsb' 28 4).toNat + 2 ^ 17 * (d.extractLsb' 17 11).toNat + 2 ^ 16 * (d.getLsbD 16).toNat +
      2 ^ 12 * (d.extractLsb' 12 4).toNat + (d.extractLsb' 0 12).toNat := by
  have := d.isLt
  simp only [BitVec.getLsbD, Nat.toNat_testBit, BitVec.extractLsb'_toNat, Nat.shiftRight_eq_div_pow]
  omega

/-- The GCODEC and the SEQ format have the same fields. -/
theorem toNat_eq_kindFields (d : Word) : d.toNat =
    2 ^ 28 * (d.extractLsb' 28 4).toNat + 2 ^ 24 * (d.extractLsb' 24 4).toNat + 2 ^ 12 * (d.extractLsb' 12 12).toNat +
      2 ^ 8 * (d.extractLsb' 8 4).toNat + 2 ^ 4 * (d.extractLsb' 4 4).toNat + (indexField d).toNat := by
  have := d.isLt
  simp only [indexField, BitVec.extractLsb'_toNat, Nat.shiftRight_eq_div_pow]
  omega

theorem toNat_eq_scodecFields (d : Word) : d.toNat =
    2 ^ 28 * (d.extractLsb' 28 4).toNat + 2 ^ 12 * (d.extractLsb' 12 16).toNat + 2 ^ 8 * (d.extractLsb' 8 4).toNat +
      (d.extractLsb' 0 8).toNat := by
  have := d.isLt
  simp only [BitVec.extractLsb'_toNat, Nat.shiftRight_eq_div_pow]
  omega

theorem toNat_eq_cfgFields (d : Word) : d.toNat =
    2 ^ 28 * (d.extractLsb' 28 4).toNat + 2 ^ 24 * (d.extractLsb' 24 4).toNat + 2 ^ 4 * (d.extractLsb' 4 20).toNat +
      (indexField d).toNat := by
  have := d.isLt
  simp only [indexField, BitVec.extractLsb'_toNat, Nat.shiftRight_eq_div_pow]
  omega

theorem busRow_match (hclass : (d.extractLsb' 28 4).toNat = 0) (h : busRow d = some k) : d &&& k.mask = k.pattern := by
  unfold busRow at h
  cases hw : d.getLsbD 16 <;> simp only [hw, Bool.false_eq_true, if_true, if_false] at h
  all_goals
    split_ifs at h with hzero <;> cases h
    all_goals
      rename_i hoff
      refine match_of_toNat_eq (idx := 0) (.inr rfl) ?_
      rw [toNat_eq_busFields, hclass, hzero.1, hzero.2, hw, hoff]
      rfl

theorem gcodecRow_match (hclass : (d.extractLsb' 28 4).toNat = 1) (h : gcodecRow d = some k) :
    d &&& k.mask = k.pattern := by
  unfold gcodecRow at h
  split_ifs at h with hzero
  split at h <;> cases h
  all_goals
    rename_i hkind hfunc
    refine match_of_toNat_eq (idx := indexField d) (.inl rfl) ?_
    rw [toNat_eq_kindFields, hclass, hzero.1, hzero.2, hkind, hfunc]
    rfl

theorem scodecRow_match (hclass : (d.extractLsb' 28 4).toNat = 2) (h : scodecRow d = some k) :
    d &&& k.mask = k.pattern := by
  unfold scodecRow at h
  split_ifs at h with hzero
  split at h <;> cases h
  all_goals
    rename_i hfunc
    refine match_of_toNat_eq (idx := 0) (.inr rfl) ?_
    rw [toNat_eq_scodecFields, hclass, hzero.1, hzero.2, hfunc]
    rfl

theorem seqRow_match (hclass : (d.extractLsb' 28 4).toNat = 3) (h : seqRow d = some k) : d &&& k.mask = k.pattern := by
  unfold seqRow at h
  split_ifs at h with hzero
  split at h <;> cases h
  all_goals
    rename_i hkind hfunc
    refine match_of_toNat_eq (idx := indexField d) (.inl rfl) ?_
    rw [toNat_eq_kindFields, hclass, hzero.1, hzero.2, hkind, hfunc]
    rfl

theorem cfgRow_match (hclass : (d.extractLsb' 28 4).toNat = 4) (h : cfgRow d = some k) : d &&& k.mask = k.pattern := by
  unfold cfgRow at h
  split_ifs at h with hfields
  cases h
  refine match_of_toNat_eq (idx := indexField d) (.inl rfl) ?_
  rw [toNat_eq_cfgFields, hclass, hfields.1, hfields.2]
  rfl

/-- The fields that select a row fix every bit its mask fixes. -/
theorem match_of_rowByFields (h : rowByFields d = some k) : d &&& k.mask = k.pattern := by
  unfold rowByFields at h
  split at h
  · exact busRow_match ‹_› h
  · exact gcodecRow_match ‹_› h
  · exact scodecRow_match ‹_› h
  · exact seqRow_match ‹_› h
  · exact cfgRow_match ‹_› h
  · cases h

end

theorem rowByFields_row (k : Mnemonic) (idx : BitVec 4) (h : k.mask = 0xFFFFFFF0 ∨ idx = 0) :
    rowByFields (k.pattern ||| idx.zeroExtend 32) = some k := by
  rcases h with h | rfl
  · revert idx; cases k <;> revert h <;> decide
  · cases k <;> decide

/-- Settles O4: both readings select row `k` exactly for the descriptors of `k`. -/
theorem fieldFormatsAgreeWithTheRows : Obligations.FieldFormatsAgreeWithTheRows := by
  intro d
  refine Option.ext fun k => ?_
  rw [decodeRow_eq_some_iff]
  refine ⟨match_of_rowByFields, fun h => ?_⟩
  obtain ⟨idx, hk, rfl⟩ := match_iff_exists_index.mp h
  exact rowByFields_row k idx hk

/-! ### The decoder's answers (R63, R121) -/

theorem decodeRow_eq_none_iff {d : Word} : decodeRow d = none ↔ ∀ k : Mnemonic, d &&& k.mask ≠ k.pattern := by
  simp only [Option.eq_none_iff_forall_ne_some, ne_eq, decodeRow_eq_some_iff]

/-- A BUS descriptor selects a row only by the offset of a register (R51). -/
theorem decodeRow_bus_eq_none {d : Word} (hclass : d.extractLsb' 28 4 = 0)
    (hoff : d.extractLsb' 0 12 ∉ [0x90C#12, 0x940#12, 0x944#12, 0x96C#12]) : decodeRow d = none := by
  simp only [List.mem_cons, List.not_mem_nil, or_false, not_or] at hoff
  obtain ⟨h1, h2, h3, h4⟩ := hoff
  rw [← fieldFormatsAgreeWithTheRows d]
  simp [rowByFields, hclass, busRow, h1, h2, h3, h4]

/-- The index of a sequencer or configurator row names no peripheral of its kind. -/
def Mnemonic.outOfRange (nUart : Nat) (k : Mnemonic) (idx : Nat) : Prop :=
  k ∈ [Mnemonic.uartBringup, .uartPowerdown] ∧ nUart ≤ idx ∨
    k ∈ [Mnemonic.spiBringup, .spiPowerdown, .spiConfigure] ∧ 2 ≤ idx

/-- An operand that the row reads is no variant of its enumeration. -/
def Mnemonic.badEnum (k : Mnemonic) (o : Operands) : Prop :=
  k ∈ [Mnemonic.spiclkSourceSet, .spiConfigure] ∧ 5 ≤ o.src ∨ k ∈ [Mnemonic.spiclkNSet, .spiConfigure] ∧ 4 ≤ o.n

section
variable {k : Mnemonic} {idx : BitVec 4} {o : Operands}

theorem indexOk_eq_false_iff {nUart : Nat} : k.indexOk nUart idx = false ↔ k.outOfRange nUart idx.toNat := by
  cases k <;> simp [Mnemonic.indexOk, Mnemonic.outOfRange, Nat.succ_le_iff]

theorem withSource_of_lt {code : Nat} (h : code < 5) : ∃ src, ∀ f, withSource code f = f src := by
  interval_cases code <;> exact ⟨_, fun _ => rfl⟩

theorem withSource_of_le {code : Nat} (h : 5 ≤ code) (f : SpiClockSource → Except Rejection Instr) :
    withSource code f = .error .enum := by
  by_cases h8 : code < 8
  · interval_cases code <;> rfl
  · simp only [withSource, if_neg h8]

theorem build_of_badEnum (h : k.badEnum o) : k.build idx o = .error .enum := by
  obtain ⟨hk, hs⟩ | ⟨hk, hn⟩ := h
  · obtain rfl | rfl : k = .spiclkSourceSet ∨ k = .spiConfigure := by simpa using hk
    · exact withSource_of_le hs _
    · exact withSource_of_le hs _
  · have hfactor (f) : withFactorN o.n f = .error .enum := if_neg hn.not_gt
    obtain rfl | rfl : k = .spiclkNSet ∨ k = .spiConfigure := by simpa using hk
    · exact hfactor fun n => .ok (.spiclkNSet o.v n)
    · obtain hs | hs := Nat.lt_or_ge o.src 5
      · obtain ⟨src, hsrc⟩ := withSource_of_lt hs
        exact (hsrc _).trans (hfactor _)
      · exact withSource_of_le hs _

theorem build_of_not_badEnum (h : ¬k.badEnum o) :
    ∃ i, k.build idx o = .ok i ∧ i.mnemonic = k ∧ (k.mask = 0xFFFFFFF0 → i.index = idx) := by
  cases k
  case spiclkSourceSet =>
    obtain ⟨src, hsrc⟩ := withSource_of_lt (code := o.src) (by simpa [Mnemonic.badEnum] using h)
    exact ⟨_, hsrc _, rfl, nofun⟩
  case spiclkNSet =>
    have hn : o.n < 4 := by simpa [Mnemonic.badEnum] using h
    exact ⟨_, if_pos hn, rfl, nofun⟩
  case spiConfigure =>
    obtain ⟨hs, hn⟩ : o.src < 5 ∧ o.n < 4 := by simpa [Mnemonic.badEnum] using h
    obtain ⟨src, hsrc⟩ := withSource_of_lt hs
    exact ⟨_, (hsrc _).trans (if_pos hn), rfl, fun _ => rfl⟩
  all_goals exact ⟨_, rfl, rfl, by simp [Mnemonic.mask, Instr.index]⟩

end

theorem decode_of_match {d : Word} {k : Mnemonic} (h : d &&& k.mask = k.pattern) (nUart : Nat) (o : Operands) :
    decode nUart d o = if k.indexOk nUart (indexField d) then k.build (indexField d) o else .error .index := by
  simp only [decode, decodeRow_eq_some_iff.mpr h]

theorem decode_of_decodeRow_none {d : Word} (h : decodeRow d = none) (nUart : Nat) (o : Operands) :
    decode nUart d o = .error .descriptor := by
  simp only [decode, h]

/-- Settles O3: the row of a descriptor is unique, and the row's index check and operands decide the answer. -/
theorem decoderGivesOneAnswer : Obligations.DecoderGivesOneAnswer := by
  intro nUart d o
  refine ⟨fun k k' h h' => ?_, fun h => decode_of_decodeRow_none (decodeRow_eq_none_iff.mpr h) nUart o,
    fun hclass hoff => decode_of_decodeRow_none (decodeRow_bus_eq_none hclass hoff) nUart o, fun k h => ?_⟩
  · exact Option.some.inj ((decodeRow_eq_some_iff.mpr h).symm.trans (decodeRow_eq_some_iff.mpr h'))
  · rw [decode_of_match h]
    have hindex : k.indexOk nUart (indexField d) = false ↔ k.outOfRange nUart (indexField d).toNat := indexOk_eq_false_iff
    refine ⟨fun hout => if_neg (by simp [hindex.mpr hout]), fun hin hbad => ?_, fun hin hgood => ?_⟩
    all_goals rw [if_pos (by simpa using mt hindex.mp hin)]
    · exact build_of_badEnum hbad
    · obtain ⟨i, hi, hrow, -⟩ := build_of_not_badEnum (idx := indexField d) hgood
      exact ⟨i, hi, hrow⟩

/-! ### The encoder as the decoder's inverse (R57, R62) -/

/-- A row without the field I answers for every index alike. -/
theorem index_unread {k : Mnemonic} (h : k.mask ≠ 0xFFFFFFF0) (nUart : Nat) (idx jdx : BitVec 4) (o : Operands) :
    k.indexOk nUart idx = k.indexOk nUart jdx ∧ k.build idx o = k.build jdx o := by
  cases k with
  | rdUartBgr | wrUartBgr | rdSpiClk0 | wrSpiClk0 | rdSpiClk1 | wrSpiClk1 | rdSpiBgr | wrSpiBgr | spiclkSourceGet
  | spiclkSourceSet | spiclkNGet | spiclkNSet | spiclkMGet | spiclkMSet => exact ⟨rfl, rfl⟩
  | uartGateMask | uartGatePass | uartAssertReset | uartDeassertReset | uartGateGet | uartResetGet | spiGateMask
  | spiGatePass | spiAssertReset | spiDeassertReset | spiGateGet | spiResetGet | uartBringup | uartPowerdown | spiBringup
  | spiPowerdown | spiConfigure => exact absurd rfl h

/-- The decoder on an operation's descriptor, whatever the operands. -/
theorem decode_encodeDesc (nUart : Nat) (i : Instr) (o : Operands) :
    decode nUart (encodeDesc i) o = if i.wf nUart then i.mnemonic.build i.index o else .error .index := by
  rw [← indexOk_eq_wf]
  by_cases h : i.mnemonic.mask = 0xFFFFFFF0
  · exact decode_row nUart i.mnemonic i.index o h
  · obtain ⟨hok, hbuild⟩ := index_unread h nUart (indexField (encodeDesc i)) i.index o
    simp only [decode, decodeRow_encodeDesc, hok, hbuild]

theorem build_encodeOperands (i : Instr) : i.mnemonic.build i.index (encodeOperands i) = .ok i := by
  cases i
  case spiclkSourceSet v src => exact withSource_encodeSrc src _
  case spiclkNSet v n => exact withFactorN_encodeN n fun n => .ok (.spiclkNSet v n)
  case spiConfigure idx src m n => exact (withSource_encodeSrc src _).trans (withFactorN_encodeN n _)
  all_goals rfl

/-- Settles O1: the descriptor finds the operation's row, and the row rebuilds it from its index and operands. -/
theorem decodeOfEncodeIsTheInstruction : Obligations.DecodeOfEncodeIsTheInstruction := by
  intro nUart i hi
  rw [decode_encodeDesc, if_pos hi, build_encodeOperands]

/-- An admitted descriptor has the row of its operation, and the index where the row has the field I. -/
theorem decode_row_and_index {nUart : Nat} {d : Word} {o : Operands} {i : Instr} (h : decode nUart d o = .ok i) :
    d &&& i.mnemonic.mask = i.mnemonic.pattern ∧ (i.mnemonic.mask = 0xFFFFFFF0 → i.index = indexField d) := by
  cases hrow : decodeRow d with
  | none => rw [decode_of_decodeRow_none hrow] at h; cases h
  | some k =>
    have hmatch : d &&& k.mask = k.pattern := decodeRow_eq_some_iff.mp hrow
    rw [decode_of_match hmatch] at h
    split at h
    · by_cases hbad : k.badEnum o
      · rw [build_of_badEnum hbad] at h; cases h
      · obtain ⟨j, hj, rfl, hindex⟩ := build_of_not_badEnum (idx := indexField d) hbad
        obtain rfl : j = i := Except.ok.inj (hj.symm.trans h)
        exact ⟨hmatch, hindex⟩
    · cases h

/-- Settles O2: the operation has the row and the index of the descriptor, and these are all of its bits. -/
theorem admittedDescriptorIsTheEncoding : Obligations.AdmittedDescriptorIsTheEncoding := by
  intro nUart d o i h
  obtain ⟨hmatch, hindex⟩ := decode_row_and_index h
  refine ⟨?_, Machine.decode_wf h⟩
  obtain ⟨idx, hrow, rfl⟩ := match_iff_exists_index.mp hmatch
  suffices hidx : i.index = idx by rw [encodeDesc, hidx]
  by_cases hmask : i.mnemonic.mask = 0xFFFFFFF0
  · rw [hindex hmask, indexField_pattern _ _ hmask]
  · rw [(mask_or_index i).resolve_left hmask, hrow.resolve_left hmask]

end Sys2Proof

namespace Sys2Proof.Machine

open Sys2Proof

/-! ### Lines of text (R65) -/

/-- Settles O7: the parser runs on each line. -/
theorem textLinesNameOperations : Obligations.TextLinesNameOperations := by
  unfold Obligations.TextLinesNameOperations
  decide

/-! ### The hand-built bring-up of P5 (R66) -/

/-- A machine with agent 0 alone and no schedule, at a point of a run on `uart_bgr`: the register's word, the agent's
record, the events and the results so far. -/
structure State.Solo (s : State) (p : Params) (w : Word) (a : Agent) (es : List Event) (rs : List Result) : Prop where
  params : s.params = p
  sched : s.sched = []
  word : s.uartBgr = w
  agents : s.agents = [a]
  id : a.id = 0
  history : s.history = es
  results : s.completed.map (fun c => c.result) = rs

/-- The event of an access of `uart_bgr` by agent 0. -/
def uartEvent (dir : Dir) (v : Word) : Event := { agent := 0, dir := dir, off := Reg.uartBgr.off, value := v }

section
variable {p : Params} {s : State} {w v : Word} {a b : Agent} {es : List Event} {rs : List Result} {i : Instr} {k : Nat}

/-- Changing the record of the only agent. -/
theorem State.Solo.map_agents (h : s.Solo p w a es rs) (hturn : s.turn = 0) (f : Agent → Agent) :
    (s.agents.map fun x => if x.id = s.turn then f x else x) = [f a] := by
  simp [h.agents, h.id, hturn]

/-- The only agent gets the turn when it can move, and runs its operation. -/
theorem State.Solo.turn (h : s.Solo p w a es rs) (hb : a.begin = some b) (hop : b.op = encode i)
    (hi : i.wf p.nUart = true) :
    ∃ u, u.Solo p w b es rs ∧ u.turn = 0 ∧ u.current = some b ∧ step s = exec i u := by
  have hid : b.id = 0 := (begin_cases hb).2.1.trans h.id
  have hnext : s.nextTurn = some (s.giveTurn b []) := by
    simp [State.nextTurn, h.sched, State.scheduled, h.agents, hb]
  have hcurrent : (s.giveTurn b []).current = some b := giveTurn_current (by simp [h.agents]) hb []
  refine ⟨s.giveTurn b [], ⟨h.params, rfl, h.word, ?_, hid, h.history, h.results⟩, hid, hcurrent, ?_⟩
  · simp [h.agents, h.id, hid]
  · rw [step, hnext]
    exact runTurn_eq_exec hcurrent hop (decodeOfEncodeIsTheInstruction _ i (h.params ▸ hi))

theorem State.Solo.readValue (h : s.Solo p w a es rs) (hu : p.undefBits = .storage) (hm : p.externalMutation = false) :
    s.readValue .uartBgr = w :=
  (readValue_storage (h.params ▸ hm) (h.params ▸ hu) .uartBgr).trans h.word

/-- A bus read of `uart_bgr` (R68). -/
theorem State.Solo.busRead (h : s.Solo p w a es rs) (hu : p.undefBits = .storage) (hm : p.externalMutation = false)
    (hb : a.begin = some b) (hop : b.op = encode .rdUartBgr) (hph : b.ph = 0) :
    ∃ t, step s = .next t ∧
      t.Solo p w { b with tmp := w, ph := 0, done := true } (es ++ [uartEvent .read w]) (rs ++ [.word w]) := by
  obtain ⟨u, hat, hturn, hcurrent, hstep⟩ := h.turn hb hop rfl
  have hread : exec .rdUartBgr u = _ := busRead_runs ⟨hcurrent, hph⟩ .uartBgr
  rw [hat.readValue hu hm] at hread
  refine ⟨_, hstep.trans hread, hat.params, hat.sched, hat.word, ?_, hat.id, ?_, ?_⟩
  · simp [hat.agents, hat.id, hturn]
  · simp [hat.history, hturn, uartEvent, hat.readValue hu hm]
  · simp [hat.results]

/-- A bus write of `uart_bgr` (R69). -/
theorem State.Solo.busWrite (h : s.Solo p w a es rs) (hb : a.begin = some b) (hop : b.op = encode (.wrUartBgr v))
    (hph : b.ph = 0) :
    ∃ t, step s = .next t ∧
      t.Solo p v { b with done := true } (es ++ [uartEvent .write v]) (rs ++ [.unit]) := by
  obtain ⟨u, hat, hturn, hcurrent, hstep⟩ := h.turn hb hop rfl
  have hwrite : exec (.wrUartBgr v) u = _ := busWrite_runs ⟨hcurrent, hph⟩ .uartBgr v
  refine ⟨_, hstep.trans hwrite, hat.params, hat.sched, rfl, hat.map_agents hturn _, hat.id, ?_, ?_⟩
  · simp [hat.history, hturn, uartEvent]
  · simp [hat.results]

/-- A pure codec function (R100). -/
theorem State.Solo.pureOp (h : s.Solo p w a es rs) {res : Result} (hb : a.begin = some b) (hop : b.op = encode i)
    (hph : b.ph = 0) (hi : i.wf p.nUart = true) (hpure : ∀ u, exec i u = Machine.pureOp res u) :
    ∃ t, step s = .next t ∧ t.Solo p w { b with done := true } es (rs ++ [res]) := by
  obtain ⟨u, hat, hturn, hcurrent, hstep⟩ := h.turn hb hop hi
  rw [hpure, pureOp_runs ⟨hcurrent, hph⟩] at hstep
  refine ⟨_, hstep, hat.params, hat.sched, hat.word, hat.map_agents hturn _, hat.id, hat.history, ?_⟩
  simp [hat.results]

end

section
variable {p : Params} {s : State} {w tmp : Word} {es : List Event} {rs : List Result} {idx : BitVec 4} {k : Nat}

/-- The only agent, at a phase of its bring-up, runs that phase. -/
theorem State.Solo.bringup_turn (h : s.Solo p w (bringupAgent 0 idx k tmp false) es rs) (hi : idx.toNat < p.nUart) :
    ∃ u, u.Solo p w (bringupAgent 0 idx k tmp false) es rs ∧ u.turn = 0 ∧ u.runs (bringupAgent 0 idx k tmp false) k ∧
      step s = bringup Reg.uartBgr.off idx u := by
  obtain ⟨u, hat, hturn, hcurrent, hstep⟩ := h.turn (i := .uartBringup idx) rfl rfl (decide_eq_true hi)
  exact ⟨u, hat, hturn, ⟨hcurrent, rfl⟩, hstep.trans (if_pos (decide_eq_true (hat.params ▸ hi)))⟩

/-- A read of the bring-up (R102). -/
theorem State.Solo.bringup_read (h : s.Solo p w (bringupAgent 0 idx k tmp false) es rs) (hu : p.undefBits = .storage)
    (hm : p.externalMutation = false) (hi : idx.toNat < p.nUart) (hk : k = 0 ∨ k = 2) :
    ∃ t, step s = .next t ∧ t.Solo p w (bringupAgent 0 idx (k + 1) w false) (es ++ [uartEvent .read w]) rs := by
  obtain ⟨u, hat, hturn, hruns, hstep⟩ := h.bringup_turn hi
  have hv : u.readValue .uartBgr = w := hat.readValue hu hm
  have hread : step s = .next ((u.afterRead .uartBgr).advance w (k + 1)) := by
    obtain rfl | rfl := hk
    · rw [hstep, Machine.bringup_read hruns, hv]
    · rw [hstep, bringup_reread hruns, hv]
  refine ⟨_, hread, hat.params, hat.sched, hat.word, hat.map_agents hturn _, rfl, ?_, hat.results⟩
  simp [hat.history, hturn, uartEvent, hv]

/-- The first write of the bring-up (R102). -/
theorem State.Solo.bringup_hold (h : s.Solo p w (bringupAgent 0 idx 1 tmp false) es rs) (hi : idx.toNat < p.nUart) :
    ∃ t, step s = .next t ∧ t.Solo p (holdInReset idx tmp) (bringupAgent 0 idx 2 tmp false)
      (es ++ [uartEvent .write (holdInReset idx tmp)]) rs := by
  obtain ⟨u, hat, hturn, hruns, hstep⟩ := h.bringup_turn hi
  refine ⟨_, hstep.trans (Machine.bringup_hold hruns .uartBgr idx), hat.params, hat.sched, rfl,
    hat.map_agents hturn _, rfl, ?_, hat.results⟩
  simp [hat.history, hturn, uartEvent, bringupAgent]

/-- The last write of the bring-up, after which it is done (R102). -/
theorem State.Solo.bringup_release (h : s.Solo p w (bringupAgent 0 idx 3 tmp false) es rs) (hi : idx.toNat < p.nUart) :
    ∃ t, step s = .next t ∧ t.Solo p (letRun idx tmp) (bringupAgent 0 idx 3 tmp true)
      (es ++ [uartEvent .write (letRun idx tmp)]) (rs ++ [.unit]) := by
  obtain ⟨u, hat, hturn, hruns, hstep⟩ := h.bringup_turn hi
  refine ⟨_, hstep.trans (Machine.bringup_release hruns .uartBgr idx), hat.params, hat.sched, rfl,
    hat.map_agents hturn _, rfl, ?_, ?_⟩
  · simp [hat.history, hturn, uartEvent, bringupAgent]
  · simp [hat.results]

/-- The events of a bring-up of a UART alone on a register that holds `v` (R108). -/
def bringupEvents (idx : BitVec 4) (v : Word) : List Event :=
  [uartEvent .read v, uartEvent .write (holdInReset idx v), uartEvent .read (holdInReset idx v),
    uartEvent .write (letRun idx (holdInReset idx v))]

/-- The four steps of a bring-up (R102). -/
theorem bringup_run {v : Word} (hu : p.undefBits = .storage) (hm : p.externalMutation = false)
    (hi : idx.toNat < p.nUart) (h : s.Solo p v (bringupAgent 0 idx 0 tmp false) [] []) :
    ∃ t a, Host.Core.run Sys2Proof.core 4 s = .next t ∧
      t.Solo p (letRun idx (holdInReset idx v)) a (bringupEvents idx v) [.unit] := by
  obtain ⟨s₁, step₁, h⟩ := h.bringup_read hu hm hi (.inl rfl)
  obtain ⟨s₂, step₂, h⟩ := h.bringup_hold hi
  obtain ⟨s₃, step₃, h⟩ := h.bringup_read hu hm hi (.inr rfl)
  obtain ⟨s₄, step₄, h⟩ := h.bringup_release hi
  refine ⟨s₄, _, ?_, h⟩
  rw [run_succ_of_step step₁, run_succ_of_step step₂, run_succ_of_step step₃, run_succ_of_step step₄]
  rfl

/-- The operations of P5 after the first, with the values they get on a register that holds `v`. -/
def handBuiltRest (idx : BitVec 4) (v : Word) : List Request :=
  [encode (.uartGateMask idx v), encode (.uartAssertReset idx (gateMask idx v)),
    encode (.wrUartBgr (holdInReset idx v)), encode .rdUartBgr, encode (.uartGatePass idx (holdInReset idx v)),
    encode (.uartDeassertReset idx (gatePass idx (holdInReset idx v))),
    encode (.wrUartBgr (letRun idx (holdInReset idx v)))]

/-- The agent of P5, about to begin. -/
def handBuiltAgent (idx : BitVec 4) (v : Word) : Agent :=
  { id := 0, op := encode .rdUartBgr, rest := handBuiltRest idx v, ph := 0, tmp := 0, done := false, stopped := false }

/-- The eight steps of P5: the two reads and the two writes are those of a bring-up. -/
theorem handBuilt_run {v : Word} (hu : p.undefBits = .storage) (hm : p.externalMutation = false)
    (h : s.Solo p v (handBuiltAgent idx v) [] []) :
    ∃ t a, Host.Core.run Sys2Proof.core 8 s = .next t ∧ t.Solo p (letRun idx (holdInReset idx v)) a (bringupEvents idx v)
      [.word v, .word (gateMask idx v), .word (holdInReset idx v), .unit, .word (holdInReset idx v),
        .word (gatePass idx (holdInReset idx v)), .word (letRun idx (holdInReset idx v)), .unit] := by
  obtain ⟨s₁, step₁, h⟩ := h.busRead hu hm rfl rfl rfl
  obtain ⟨s₂, step₂, h⟩ := h.pureOp (i := .uartGateMask idx v) rfl rfl rfl rfl fun _ => rfl
  obtain ⟨s₃, step₃, h⟩ := h.pureOp (i := .uartAssertReset idx (gateMask idx v)) rfl rfl rfl rfl fun _ => rfl
  obtain ⟨s₄, step₄, h⟩ := h.busWrite rfl rfl rfl
  obtain ⟨s₅, step₅, h⟩ := h.busRead hu hm rfl rfl rfl
  obtain ⟨s₆, step₆, h⟩ := h.pureOp (i := .uartGatePass idx (holdInReset idx v)) rfl rfl rfl rfl fun _ => rfl
  obtain ⟨s₇, step₇, h⟩ :=
    h.pureOp (i := .uartDeassertReset idx (gatePass idx (holdInReset idx v))) rfl rfl rfl rfl fun _ => rfl
  obtain ⟨s₈, step₈, h⟩ := h.busWrite rfl rfl rfl
  refine ⟨s₈, _, ?_, h⟩
  rw [run_succ_of_step step₁, run_succ_of_step step₂, run_succ_of_step step₃, run_succ_of_step step₄,
    run_succ_of_step step₅, run_succ_of_step step₆, run_succ_of_step step₇, run_succ_of_step step₈]
  rfl

end

theorem rejection_encode {nUart : Nat} {i : Instr} (hi : i.wf nUart = true) : rejection nUart (encode i) = none := by
  simp only [rejection, encode, decodeOfEncodeIsTheInstruction nUart i hi]

/-- A program of one agent whose operations are all admitted becomes that agent (R27, R121). -/
theorem submit_single {s : State} {r : Request} {rest : List Request}
    (h : ∀ q ∈ r :: rest, rejection s.params.nUart q = none) : s.submit [(r, rest)] = .ok (s.spawn r rest) :=
  submit_ok.mpr ⟨programRejection_none.mpr (by simpa using h), rfl⟩

/-- Settles O36: both runs hold the register in reset with one read and write and let it run with another. -/
theorem handBuiltBringupEqualsTheSequencer : Obligations.HandBuiltBringupEqualsTheSequencer := by
  intro p v idx hu hm hi v0 v1 v2 v4 v5 s
  obtain ⟨t, a, hrun, ht⟩ := handBuilt_run (idx := idx) (v := v0) hu hm
    (s := s.spawn (encode .rdUartBgr) (handBuiltRest idx v0)) ⟨rfl, rfl, rfl, rfl, rfl, rfl, rfl⟩
  obtain ⟨u, b, hrun', hu'⟩ := bringup_run (v := v0) hu hm hi
    (s := s.spawn (encode (.uartBringup idx)) []) ⟨rfl, rfl, rfl, rfl, rfl, rfl, rfl⟩
  refine ⟨_, _, t, u, submit_single ?_, submit_single ?_, hrun, hrun', ht.word.trans hu'.word.symm,
    ht.history.trans hu'.history.symm, ht.word, ht.results⟩
  · simp only [List.forall_mem_cons]
    exact ⟨rejection_encode rfl, rejection_encode rfl, rejection_encode rfl, rejection_encode rfl, rejection_encode rfl,
      rejection_encode rfl, rejection_encode rfl, rejection_encode rfl, nofun⟩
  · exact List.forall_mem_singleton.mpr (rejection_encode (decide_eq_true hi))

end Sys2Proof.Machine
end

section
/-! PROOFS of the statements of 40_bus_access.md: a bus write is the single write of its register (R36, R69, R71, R73,
R75). -/

namespace Sys2Proof.Machine

open Sys2Proof

theorem busWrite_writesLast {s : State} {a : Agent} (h : s.runs a 0) (r : Reg) (v : Word) :
    s.writesLast (busWrite r.off v s) a r v := by
  rw [busWrite_runs h]
  exact writesLast_next s a r v

/-- Settles O14: each of the four is the bus write at its register's offset. -/
theorem busWritesReplaceTheRegister : Obligations.BusWritesReplaceTheRegister := by
  simp only [Obligations.BusWritesReplaceTheRegister, List.forall_mem_cons]
  refine ⟨?uartBgr, ?spiClk0, ?spiClk1, ?spiBgr, nofun⟩
  case uartBgr => exact ⟨fun _ _ => rfl, fun _ _ v h => busWrite_writesLast h .uartBgr v⟩
  case spiClk0 => exact ⟨fun _ _ => rfl, fun _ _ v h => busWrite_writesLast h .spiClk0 v⟩
  case spiClk1 => exact ⟨fun _ _ => rfl, fun _ _ v h => busWrite_writesLast h .spiClk1 v⟩
  case spiBgr => exact ⟨fun _ _ => rfl, fun _ _ v h => busWrite_writesLast h .spiBgr v⟩

end Sys2Proof.Machine
end

section
/-! PROOFS of the statements of 41_gating_codec.md: a transform forces one bit of the value and copies the others (R77 to
R80, R83 to R86, R89), a getter gives one bit (R81, R82, R87, R88), and what two transforms do one after the other follows
from the bits they force (R90, R91). -/

namespace Sys2Proof.Machine

open Sys2Proof

/-! ### Forcing one bit (R89) -/

/-- `w` is `v` with bit `k` forced to `b`. -/
def forcedBit (k : Nat) (b : Bool) (v w : Word) : Prop :=
  ∀ j, j < 32 → w.getLsbD j = if j = k then b else v.getLsbD j

section
variable {k l : Nat} {b c : Bool} {u v w w' : Word}

theorem forcedBit.bit (h : forcedBit k b v w) (hk : k < 32) : w.getLsbD k = b :=
  (h k hk).trans (if_pos rfl)

/-- The forced bit and the old value determine the new one. -/
theorem forcedBit.unique (h : forcedBit k b v w) (h' : forcedBit k b v w') : w = w' :=
  BitVec.eq_of_getLsbD_eq fun j hj => (h j hj).trans (h' j hj).symm

/-- Of two values forced on one bit the later stays. -/
theorem forcedBit.trans (h : forcedBit k c v u) (h' : forcedBit k b u w) : forcedBit k b v w := by
  intro j hj
  rw [h' j hj, h j hj]
  split <;> rfl

/-- Forcing different bits gives one value in both orders. -/
theorem forcedBit.comm (hkl : k ≠ l) (h : forcedBit k b v u) (hu : forcedBit l c u w) {u' : Word}
    (h' : forcedBit l c v u') (hu' : forcedBit k b u' w') : w = w' := by
  refine BitVec.eq_of_getLsbD_eq fun j hj => ?_
  rw [hu j hj, h j hj, hu' j hj, h' j hj]
  by_cases hjk : j = k
  · rw [if_pos hjk, if_neg (hjk ▸ hkl), if_pos hjk]
  · rw [if_neg hjk, if_neg hjk]

/-- Forcing a bit changes nothing exactly when the bit had the value. -/
theorem forcedBit.eq_iff (h : forcedBit k b v w) (hk : k < 32) : w = v ↔ v.getLsbD k = b := by
  constructor
  · rintro rfl
    exact h.bit hk
  · rintro rfl
    refine BitVec.eq_of_getLsbD_eq fun j hj => (h j hj).trans ?_
    split
    · rename_i hjk; rw [hjk]
    · rfl

end

theorem setBit_forcedBit (v : Word) (k : Nat) : forcedBit k true v (setBit v k) := by
  intro j hj
  rw [setBit_bit v k j hj]
  by_cases hjk : j = k <;> simp [hjk]

theorem clrBit_forcedBit (v : Word) (k : Nat) : forcedBit k false v (clrBit v k) := by
  intro j hj
  rw [clrBit_bit v k j hj]
  by_cases hjk : j = k <;> simp [hjk]

/-! ### The transforms (R77 to R80, R83 to R86) -/

section
variable (idx : BitVec 4) (v : Word)

theorem gateMask_forcedBit : forcedBit idx.toNat false v (gateMask idx v) := clrBit_forcedBit v _

theorem gatePass_forcedBit : forcedBit idx.toNat true v (gatePass idx v) := setBit_forcedBit v _

theorem assertReset_forcedBit : forcedBit (idx.toNat + 16) false v (assertReset idx v) := clrBit_forcedBit v _

theorem deassertReset_forcedBit : forcedBit (idx.toNat + 16) true v (deassertReset idx v) := setBit_forcedBit v _

end

/-- A pure codec function in the terms of Safety (R27, R100). -/
theorem pureOp_givesPure {s : State} {a : Agent} (h : s.runs a 0) (res : Result) : s.givesPure (pureOp res s) a res :=
  ⟨_, pureOp_runs h res, rfl, finish_noAccess s a.op res, rfl, rfl⟩

theorem pureOp_givesForced {s : State} {a : Agent} {k : Nat} {b : Bool} {v w : Word} (h : s.runs a 0)
    (hw : forcedBit k b v w) : ∃ w', s.givesPure (pureOp (.word w) s) a (.word w') ∧ forcedBit k b v w' :=
  ⟨w, pureOp_givesPure h (.word w), hw⟩

/-- Settles O16: each of the eight is its kind's row with a pure function that forces one bit. -/
theorem gatingTransformsChangeOneBit : Obligations.GatingTransformsChangeOneBit := by
  simp only [Obligations.GatingTransformsChangeOneBit, List.forall_mem_cons]
  refine ⟨?uartMask, ?uartPass, ?uartAssert, ?uartDeassert, ?spiMask, ?spiPass, ?spiAssert, ?spiDeassert, nofun⟩ <;>
    intro idx
  case uartMask =>
    exact ⟨fun n o => decode_row n .uartGateMask idx o rfl, fun _ _ v h => pureOp_givesForced h (gateMask_forcedBit idx v)⟩
  case uartPass =>
    exact ⟨fun n o => decode_row n .uartGatePass idx o rfl, fun _ _ v h => pureOp_givesForced h (gatePass_forcedBit idx v)⟩
  case uartAssert =>
    exact ⟨fun n o => decode_row n .uartAssertReset idx o rfl,
      fun _ _ v h => pureOp_givesForced h (assertReset_forcedBit idx v)⟩
  case uartDeassert =>
    exact ⟨fun n o => decode_row n .uartDeassertReset idx o rfl,
      fun _ _ v h => pureOp_givesForced h (deassertReset_forcedBit idx v)⟩
  case spiMask =>
    exact ⟨fun n o => decode_row n .spiGateMask idx o rfl, fun _ _ v h => pureOp_givesForced h (gateMask_forcedBit idx v)⟩
  case spiPass =>
    exact ⟨fun n o => decode_row n .spiGatePass idx o rfl, fun _ _ v h => pureOp_givesForced h (gatePass_forcedBit idx v)⟩
  case spiAssert =>
    exact ⟨fun n o => decode_row n .spiAssertReset idx o rfl,
      fun _ _ v h => pureOp_givesForced h (assertReset_forcedBit idx v)⟩
  case spiDeassert =>
    exact ⟨fun n o => decode_row n .spiDeassertReset idx o rfl,
      fun _ _ v h => pureOp_givesForced h (deassertReset_forcedBit idx v)⟩

/-! ### The getters (R81, R82, R87, R88) -/

/-- Settles O17: each of the four is its kind's row with a pure function that gives the bit. -/
theorem gatingGettersGiveTheBit : Obligations.GatingGettersGiveTheBit := by
  simp only [Obligations.GatingGettersGiveTheBit, List.forall_mem_cons]
  refine ⟨?uartGate, ?uartReset, ?spiGate, ?spiReset, nofun⟩ <;> intro idx
  case uartGate =>
    exact ⟨fun n o => decode_row n .uartGateGet idx o rfl, fun _ _ v h => pureOp_givesPure h (.bit (gateGet idx v))⟩
  case uartReset =>
    exact ⟨fun n o => decode_row n .uartResetGet idx o rfl, fun _ _ v h => pureOp_givesPure h (.bit (resetGet idx v))⟩
  case spiGate =>
    exact ⟨fun n o => decode_row n .spiGateGet idx o rfl, fun _ _ v h => pureOp_givesPure h (.bit (gateGet idx v))⟩
  case spiReset =>
    exact ⟨fun n o => decode_row n .spiResetGet idx o rfl, fun _ _ v h => pureOp_givesPure h (.bit (resetGet idx v))⟩

/-! ### Two transforms in a row (R90, R91) -/

/-- The four transforms, each with the value it forces and the place of its bit from the index. -/
def gatingTransforms : List ((BitVec 4 → Word → Word) × Bool × Nat) :=
  [(gateMask, false, 0), (gatePass, true, 0), (assertReset, false, 16), (deassertReset, true, 16)]

theorem gatingTransforms_forcedBit : ∀ x ∈ gatingTransforms, ∀ (idx : BitVec 4) (v : Word),
    idx.toNat + x.2.2 < 32 ∧ forcedBit (idx.toNat + x.2.2) x.2.1 v (x.1 idx v) := by
  simp only [gatingTransforms, List.forall_mem_cons]
  exact ⟨fun idx v => ⟨by omega, gateMask_forcedBit idx v⟩, fun idx v => ⟨by omega, gatePass_forcedBit idx v⟩,
    fun idx v => ⟨by omega, assertReset_forcedBit idx v⟩, fun idx v => ⟨by omega, deassertReset_forcedBit idx v⟩, nofun⟩

/-- Settles O18: both orders force the same two bits, or the outer transform forces the inner one's bit again. -/
theorem transformsOnDifferentBitsCommute : Obligations.TransformsOnDifferentBitsCommute := by
  intro x hx y hy i j v
  have hxbit (u : Word) := (gatingTransforms_forcedBit x hx i u).2
  have hybit (u : Word) := (gatingTransforms_forcedBit y hy j u).2
  have hlt : i.toNat + x.2.2 < 32 := (gatingTransforms_forcedBit x hx i v).1
  refine ⟨fun hne => ?_, fun heq => ⟨?_, (hxbit _).bit hlt⟩⟩
  · exact forcedBit.comm hne.symm (hybit v) (hxbit _) (hxbit v) (hybit _)
  · exact ((heq ▸ hybit v).trans (hxbit _)).unique (hxbit v)

theorem outer_value_stays {k : Nat} {b c : Bool} {u v w : Word} (h : forcedBit k c v u) (h' : forcedBit k b u w)
    (hk : k < 32) : forcedBit k b v w ∧ (w = v ↔ v.getLsbD k = b) :=
  ⟨h.trans h', (h.trans h').eq_iff hk⟩

/-- Settles O19: each composition forces one bit twice. -/
theorem compositionsLeaveTheOuterValue : Obligations.CompositionsLeaveTheOuterValue := by
  simp only [Obligations.CompositionsLeaveTheOuterValue, List.forall_mem_cons]
  refine ⟨?deassertAssert, ?assertDeassert, ?passMask, ?maskPass, nofun⟩ <;> intro idx v
  case deassertAssert =>
    exact outer_value_stays (assertReset_forcedBit idx v) (deassertReset_forcedBit idx _) (by omega)
  case assertDeassert =>
    exact outer_value_stays (deassertReset_forcedBit idx v) (assertReset_forcedBit idx _) (by omega)
  case passMask => exact outer_value_stays (gateMask_forcedBit idx v) (gatePass_forcedBit idx _) (by omega)
  case maskPass => exact outer_value_stays (gatePass_forcedBit idx v) (gateMask_forcedBit idx _) (by omega)

end Sys2Proof.Machine
end

section
/-! PROOFS of the statements of 42_spiclk_codec.md. The laws of a field's `get` and `set` (R12) for fields that do not
overlap give the independence and the round trips of the three clock fields (R98, R99); the getters and setters are pure
functions (R92 to R97, R100), but for the unassigned source codes and the dividers above 15, which raise. -/

namespace Sys2Proof

/-! ### The codes of a source and of a factor N (R58 to R60) -/

theorem decodeSrc_eq_none_iff : ∀ c : BitVec 3, decodeSrc c = none ↔ 5 ≤ c.toNat := by decide

theorem encodeSrc_of_decodeSrc {c : BitVec 3} {src : SpiClockSource} : decodeSrc c = some src → encodeSrc src = c := by
  cases src <;> revert c <;> decide

theorem exists_decodeSrc {c : BitVec 3} (h : c.toNat ≤ 4) : ∃ src, decodeSrc c = some src :=
  Option.ne_none_iff_exists'.mp fun hc => absurd ((decodeSrc_eq_none_iff c).mp hc) (by omega)

theorem encodeN_decodeN : ∀ c : BitVec 2, encodeN (decodeN c) = c := by decide

end Sys2Proof

namespace Sys2Proof.Machine

open Sys2Proof

/-! ### Setting and getting fields (R12) -/

section
variable {o w p q : Nat} (hw : w < 32) (v x y : Word)

include hw

theorem setField_bit_outside {j : Nat} (hj : j < 32) (h : ¬(o ≤ j ∧ j < o + w)) :
    (setField v o w x).getLsbD j = v.getLsbD j := by
  rw [setField_bit v x o w j hw hj, if_neg h]

/-- Getting what was set gives it back. -/
theorem getField_setField_same (h : o + w ≤ 32) : getField (setField v o w x) o w = x.setWidth w := by
  refine BitVec.eq_of_getLsbD_eq fun j hj => ?_
  rw [getField_bit _ _ _ _ hw, setField_bit v x o w (o + j) hw (by omega), if_pos (by omega), BitVec.getLsbD_setWidth,
    Nat.add_sub_cancel_left]

/-- Setting what was got changes nothing. -/
theorem setField_getField : setField v o w ((getField v o w).setWidth 32) = v := by
  refine BitVec.eq_of_getLsbD_eq fun j hj => ?_
  rw [setField_bit _ _ _ _ _ hw hj]
  split
  case isTrue h =>
    have hlow : j - o < w := by omega
    rw [BitVec.getLsbD_setWidth, getField_bit _ _ _ _ hw, Nat.add_sub_cancel' h.1]
    simp [hlow, show j - o < 32 by omega]
  case isFalse => rfl

theorem setField_and_outside {m : Word} (hm : m &&& fieldMask o w = 0#32) : setField v o w x &&& m = v &&& m := by
  refine BitVec.eq_of_getLsbD_eq fun j hj => ?_
  rw [BitVec.getLsbD_and, BitVec.getLsbD_and]
  by_cases h : o ≤ j ∧ j < o + w
  · have hzero : m.getLsbD j = false := by
      simpa [fieldMask_bit o w j hw hj, h] using congrArg (BitVec.getLsbD · j) hm
    rw [hzero, Bool.and_false, Bool.and_false]
  · rw [setField_bit_outside hw v x hj h]

theorem getField_setField_other (hq : q < 32) (hdisj : o + w ≤ p ∨ p + q ≤ o) :
    getField (setField v p q y) o w = getField v o w := by
  refine BitVec.eq_of_getLsbD_eq fun j hj => ?_
  rw [getField_bit _ _ _ _ hw, getField_bit _ _ _ _ hw]
  by_cases hin : o + j < 32
  · rw [setField_bit_outside hq v y hin (by omega)]
  · rw [BitVec.getLsbD_of_ge _ _ (by omega), BitVec.getLsbD_of_ge _ _ (by omega)]

theorem setField_comm (hq : q < 32) (hdisj : o + w ≤ p ∨ p + q ≤ o) :
    setField (setField v p q y) o w x = setField (setField v o w x) p q y := by
  refine BitVec.eq_of_getLsbD_eq fun j hj => ?_
  by_cases h : o ≤ j ∧ j < o + w
  · rw [setField_bit_outside hq _ y hj (by omega), setField_bit _ x _ _ _ hw hj, setField_bit _ x _ _ _ hw hj, if_pos h,
      if_pos h]
  · rw [setField_bit_outside hw _ x hj h, setField_bit _ y _ _ _ hq hj, setField_bit _ y _ _ _ hq hj,
      setField_bit_outside hw v x hj h]

end

/-! ### The three clock fields -/

section
variable (v : Word) (src : SpiClockSource) (n : FactorN)

theorem sourceField_sourceSet : sourceField (sourceSet v src) = encodeSrc src :=
  (getField_setField_same (by decide) v _ (by decide)).trans (BitVec.setWidth_setWidth_of_le _ (by decide))

theorem nField_nSet : getField (nSet v n) 8 2 = encodeN n :=
  (getField_setField_same (by decide) v _ (by decide)).trans (BitVec.setWidth_setWidth_of_le _ (by decide))

theorem mGet_mSet {m : Nat} (hm : m ≤ 15) : (mGet (mSet v m)).toNat = m := by
  rw [mGet, mSet, getField_setField_same (by decide) v _ (by decide), BitVec.setWidth_ofNat_of_le (by decide),
    BitVec.toNat_ofNat, Nat.mod_eq_of_lt (by omega)]

theorem sourceGet_sourceSet : sourceGet (sourceSet v src) = some src := by
  rw [sourceGet, sourceField_sourceSet, decodeSrc_encodeSrc]

theorem sourceSet_of_sourceGet {v : Word} {src : SpiClockSource} (h : sourceGet v = some src) : sourceSet v src = v := by
  rw [sourceSet, encodeSrc_of_decodeSrc h]
  exact setField_getField (by decide) v

theorem nGet_nSet : nGet (nSet v n) = n := by
  rw [nGet, nField_nSet, decodeN_encodeN]

theorem nSet_nGet : nSet v (nGet v) = v := by
  rw [nSet, nGet, encodeN_decodeN]
  exact setField_getField (by decide) v

theorem mSet_mGet : mSet v (mGet v).toNat = v := by
  rw [mSet, BitVec.ofNat_toNat]
  exact setField_getField (by decide) v

theorem sourceGet_eq_decodeSrc : sourceGet v = decodeSrc (v.extractLsb' 24 3) :=
  congrArg decodeSrc (getField_eq_extractLsb' v 24 (by decide))

end

/-- Settles O24: the three are fields of one word, and no two of them overlap. -/
theorem clockFieldsAreIndependent : Obligations.ClockFieldsAreIndependent := by
  intro v src n m _
  have hsrc : 3 < 32 := by decide
  have hn : 2 < 32 := by decide
  have hm : 4 < 32 := by decide
  refine ⟨setField_comm hsrc v _ _ hn (by decide), setField_comm hsrc v _ _ hm (by decide),
    setField_comm hn v _ _ hm (by decide), congrArg decodeN (getField_setField_other hn v _ hsrc (by decide)),
    congrArg decodeN (getField_setField_other hn v _ hm (by decide)),
    getField_setField_other hm v _ hsrc (by decide), getField_setField_other hm v _ hn (by decide),
    congrArg decodeSrc (getField_setField_other hsrc v _ hn (by decide)),
    congrArg decodeSrc (getField_setField_other hsrc v _ hm (by decide)), ?_⟩
  simp only [List.forall_mem_cons]
  exact ⟨setField_and_outside hsrc v _ (by decide), setField_and_outside hn v _ (by decide),
    setField_and_outside hm v _ (by decide), nofun⟩

/-- Settles O25: the round trips of the fields, with those of their codes. -/
theorem clockFieldsRoundTrip : Obligations.ClockFieldsRoundTrip := fun v =>
  ⟨sourceGet_sourceSet v, nGet_nSet v, fun _ => mGet_mSet v, fun _ => sourceSet_of_sourceGet,
    fun h => sourceGet_eq_decodeSrc v ▸ exists_decodeSrc h, nSet_nGet v, mSet_mGet v⟩

/-! ### The operations (R92 to R97) -/

/-- A fault raised by an operation of one step, in the terms of Safety (R115). -/
theorem oneStep_raises {s : State} {a : Agent} (h : s.runs a 0) (code : FaultCode) (info : FaultInfo) :
    s.raises (oneStep s fun _ => .next (s.raise code info)) code info := by
  rw [oneStep_runs h]
  exact raises_next s code info

section
variable {s : State} {a : Agent} {v : Word} (h : s.runs a 0)

include h

theorem sourceGet_givesPure {src : SpiClockSource} (hsrc : sourceGet v = some src) :
    s.givesPure (exec (.spiclkSourceGet v) s) a (.source src) := by
  simp only [exec, execSpiclkSourceGet, hsrc]
  exact pureOp_givesPure h _

theorem sourceGet_raises (hnone : sourceGet v = none) :
    s.raises (exec (.spiclkSourceGet v) s) .decodeSrc (.source (sourceField v)) := by
  simp only [exec, execSpiclkSourceGet, hnone]
  exact oneStep_raises h _ _

theorem mSet_givesPure {m : Nat} (hm : m ≤ 15) : s.givesPure (exec (.spiclkMSet v m) s) a (.word (mSet v m)) := by
  simp only [exec, execSpiclkMSet, if_neg hm.not_gt]
  exact pureOp_givesPure h _

theorem mSet_raises {m : Nat} (hm : 15 < m) : s.raises (exec (.spiclkMSet v m) s) .precondM (.divider m) := by
  simp only [exec, execSpiclkMSet, if_pos hm]
  exact oneStep_raises h _ _

end

/-- Settles O20: the table has no source exactly for the codes from 5 up. -/
theorem sourceGetDecodesOrFaults : Obligations.SourceGetDecodesOrFaults := by
  refine ⟨fun _ _ => rfl, fun s a v h => ⟨fun src hsrc => ?_, exists_decodeSrc, fun hc => ?_⟩⟩
  · exact sourceGet_givesPure h ((sourceGet_eq_decodeSrc v).trans hsrc)
  · rw [← getField_eq_extractLsb' v 24 (by decide)]
    exact sourceGet_raises h ((sourceGet_eq_decodeSrc v).trans ((decodeSrc_eq_none_iff _).mpr hc))

/-- Settles O21: both are pure functions that set their field. -/
theorem sourceAndNSettersSetTheirField : Obligations.SourceAndNSettersSetTheirField := by
  refine ⟨fun _ v src => withSource_encodeSrc src fun src => .ok (.spiclkSourceSet v src),
    fun _ v n => withFactorN_encodeN n fun n => .ok (.spiclkNSet v n),
    fun s a v h => ⟨fun src => ⟨sourceSet v src, pureOp_givesPure h _, ?_, fun k hk hout => ?_⟩,
      fun n => ⟨nSet v n, pureOp_givesPure h _, ?_, fun k hk hout => ?_⟩⟩⟩
  · exact (getField_eq_extractLsb' _ 24 (by decide)).symm.trans (sourceField_sourceSet v src)
  · exact setField_bit_outside (by decide) v _ hk hout
  · exact (getField_eq_extractLsb' _ 8 (by decide)).symm.trans (nField_nSet v n)
  · exact setField_bit_outside (by decide) v _ hk hout

/-- Settles O22: both are pure functions of their field, and the codes of N are the four factors. -/
theorem nAndMGettersGiveTheirField : Obligations.NAndMGettersGiveTheirField := by
  refine ⟨fun _ _ => ⟨rfl, rfl⟩, fun s a v h => ⟨fun n hn => ?_, ⟨_, (encodeN_decodeN _).symm⟩, ?_⟩⟩
  · have hget : nGet v = n := by rw [nGet, getField_eq_extractLsb' v 8 (by decide), hn, decodeN_encodeN]
    exact hget ▸ pureOp_givesPure h (.factorN (nGet v))
  · rw [← getField_eq_extractLsb' v 0 (by decide)]
    exact pureOp_givesPure h _

/-- Settles O23: the check of the divider decides between the two outcomes. -/
theorem mSetterSetsItsFieldOrFaults : Obligations.MSetterSetsItsFieldOrFaults := by
  refine ⟨fun _ _ => rfl, fun s a v m h => ⟨fun hm => ?_, mSet_raises h⟩⟩
  refine ⟨mSet v m, mSet_givesPure h hm, ?_, fun k hk hout => ?_⟩
  · rw [← getField_eq_extractLsb' _ 0 (by decide)]
    exact mGet_mSet v hm
  · exact setField_bit_outside (by decide) v _ hk (by omega)

/-- Settles O26: the operands alone decide whether one of the two that can fault does, and every other codec operation is a
pure function. -/
theorem codecIgnoresTheRegisters : Obligations.CodecIgnoresTheRegisters := by
  intro i hi
  cases i with
  | rdUartBgr | wrUartBgr | rdSpiClk0 | wrSpiClk0 | rdSpiClk1 | wrSpiClk1 | rdSpiBgr | wrSpiBgr | uartBringup
  | uartPowerdown | spiBringup | spiPowerdown | spiConfigure => exact absurd hi (by rw [Instr.mnemonic]; decide)
  | uartGateMask | uartGatePass | uartAssertReset | uartDeassertReset | uartGateGet | uartResetGet | spiGateMask
  | spiGatePass | spiAssertReset | spiDeassertReset | spiGateGet | spiResetGet | spiclkSourceSet | spiclkNGet | spiclkNSet
  | spiclkMGet => exact .inl ⟨_, fun _ _ h => pureOp_givesPure h _⟩
  | spiclkSourceGet v =>
    cases hsrc : sourceGet v with
    | some src => exact .inl ⟨_, fun _ _ h => sourceGet_givesPure h hsrc⟩
    | none => exact .inr ⟨_, _, fun _ _ h => sourceGet_raises h hsrc⟩
  | spiclkMSet v m =>
    rcases Nat.lt_or_ge 15 m with hm | hm
    · exact .inr ⟨_, _, fun _ _ h => mSet_raises h hm⟩
    · exact .inl ⟨_, fun _ _ h => mSet_givesPure h hm⟩

end Sys2Proof.Machine
end

section
/-! PROOFS of the statements of 43_sequencer.md. The phases of the sequencer's operations are reads and writes of the
kind's register (R102 to R105). What follows about whole runs goes through a plan: the accesses an operation still has
to make. An agent on a plan makes the plan's next access whenever it has the turn, whatever the others do, which gives
its events (R106, R108, R109) and the states it ends in (R110, R145). The end state of an undisturbed run follows from
its events and from R19 (R107). -/

namespace Sys2Proof.Machine

open Sys2Proof

/-! ### The phases in the terms of Safety (R102 to R105, R111) -/

/-- A read that the operation goes on after, in the terms of Safety. -/
theorem readsOn_next (s : State) (r : Reg) (k : Nat) :
    s.readsOn (.next ((s.afterRead r).advance (s.readValue r) k)) r k :=
  ⟨_, s.readValue r, rfl, didRead_of rfl rfl rfl rfl rfl (by simp) rfl rfl, rfl, rfl⟩

/-- A write that the operation goes on after, in the terms of Safety. -/
theorem writesOn_next (s : State) (a : Agent) (r : Reg) (w : Word) (k : Nat) :
    s.writesOn (.next ((s.afterWrite r w).advance a.tmp k)) a r w k := by
  have hother : ∀ q, q ≠ r → ((s.afterWrite r w).advance a.tmp k).reg q = s.reg q := fun q hq => by
    simp [State.afterWrite_reg_other s r q w hq]
  exact ⟨_, rfl, didWrite_of (by simp) (by simp) (by simp) (by simp) (by simp) (by simp) hother rfl (by simp), by simp,
    by simp [State.turnBecomes]⟩

section
variable {s : State} {a : Agent} {k : Kind} {idx : BitVec 4}

/-- An index in range passes the check of R101. -/
theorem exec_bringupOf (hidx : idx.toNat < instances s.params k) :
    exec (bringupOf k idx) s = bringup (bgr k).off idx s := by
  cases k <;> exact if_pos (decide_eq_true hidx)

theorem exec_powerdownOf (hidx : idx.toNat < instances s.params k) :
    exec (powerdownOf k idx) s = powerdown (bgr k).off idx s := by
  cases k <;> exact if_pos (decide_eq_true hidx)

theorem exec_spiConfigure (hidx : idx.toNat < nSpi) (src : SpiClockSource) (m : Nat) (n : FactorN) :
    exec (.spiConfigure idx src m n) s = configure (spiClk idx).off src m n s := by
  rw [spiClk_off hidx]
  exact if_pos (decide_eq_true hidx)

theorem bringupOf_reads (hidx : idx.toNat < instances s.params k) (h : s.runs a 0) :
    s.readsOn (exec (bringupOf k idx) s) (bgr k) 1 := by
  rw [exec_bringupOf hidx, bringup_read h]
  exact readsOn_next s (bgr k) 1

theorem bringupOf_holds (hidx : idx.toNat < instances s.params k) (h : s.runs a 1) :
    s.writesOn (exec (bringupOf k idx) s) a (bgr k) (holdInReset idx a.tmp) 2 := by
  rw [exec_bringupOf hidx, bringup_hold h]
  exact writesOn_next s a (bgr k) _ 2

theorem bringupOf_rereads (hidx : idx.toNat < instances s.params k) (h : s.runs a 2) :
    s.readsOn (exec (bringupOf k idx) s) (bgr k) 3 := by
  rw [exec_bringupOf hidx, bringup_reread h]
  exact readsOn_next s (bgr k) 3

theorem bringupOf_releases (hidx : idx.toNat < instances s.params k) (h : s.runs a 3) :
    s.writesLast (exec (bringupOf k idx) s) a (bgr k) (letRun idx a.tmp) := by
  rw [exec_bringupOf hidx, bringup_release h]
  exact writesLast_next s a (bgr k) _

theorem powerdownOf_reads (hidx : idx.toNat < instances s.params k) (h : s.runs a 0) :
    s.readsOn (exec (powerdownOf k idx) s) (bgr k) 1 := by
  rw [exec_powerdownOf hidx, powerdown_read h]
  exact readsOn_next s (bgr k) 1

theorem powerdownOf_holds (hidx : idx.toNat < instances s.params k) (h : s.runs a 1) :
    s.writesLast (exec (powerdownOf k idx) s) a (bgr k) (holdInReset idx a.tmp) := by
  rw [exec_powerdownOf hidx, powerdown_hold h]
  exact writesLast_next s a (bgr k) _

theorem spiConfigure_reads (hidx : idx.toNat < nSpi) {src : SpiClockSource} {m : Nat} {n : FactorN} (hm : m ≤ 15)
    (h : s.runs a 0) : s.readsOn (exec (.spiConfigure idx src m n) s) (spiClk idx) 1 := by
  rw [exec_spiConfigure hidx]
  simp only [configure, inFlight_current h.1, h.2, if_neg hm.not_gt, read32_register]
  exact readsOn_next s (spiClk idx) 1

theorem spiConfigure_writes (hidx : idx.toNat < nSpi) {src : SpiClockSource} {m : Nat} {n : FactorN} (h : s.runs a 1) :
    s.writesLast (exec (.spiConfigure idx src m n) s) a (spiClk idx) (configured a.tmp src m n) := by
  rw [exec_spiConfigure hidx]
  simp only [configure, inFlight_current h.1, h.2, write32_register]
  exact writesLast_next s a (spiClk idx) _

end

/-- Settles O27: the four phases are two reads and two writes of the kind's register. -/
theorem bringupPhases : Obligations.BringupPhases := by
  intro s a k idx hidx x
  have hwindow : windowTarget (bringupOf k idx) = some (bgr k) := by cases k <;> rfl
  refine ⟨fun o => ?_, fun b d o hop hd hdone hph => window_eq_some_iff.mpr ⟨hdone, hph, d, o, _, hop, hd, hwindow⟩,
    bringupOf_reads hidx, fun h => ⟨_, holdInReset_heldBits idx a.tmp, bringupOf_holds hidx h⟩,
    bringupOf_rereads hidx, fun h => ⟨_, letRun_runningBits idx a.tmp, bringupOf_releases hidx h⟩⟩
  cases k
  · exact (decode_row _ .uartBringup idx o rfl).trans (if_pos (decide_eq_true hidx))
  · exact (decode_row _ .spiBringup idx o rfl).trans (if_pos (decide_eq_true hidx))

/-- Settles O28: the two phases are a read and a write of the kind's register. -/
theorem powerdownPhases : Obligations.PowerdownPhases := by
  intro s a k idx hidx x
  have hwindow : windowTarget (powerdownOf k idx) = some (bgr k) := by cases k <;> rfl
  refine ⟨fun o => ?_, fun b d o hop hd hdone hph => window_eq_some_iff.mpr ⟨hdone, hph, d, o, _, hop, hd, hwindow⟩,
    powerdownOf_reads hidx, fun h => ⟨_, holdInReset_heldBits idx a.tmp, powerdownOf_holds hidx h⟩⟩
  cases k
  · exact (decode_row _ .uartPowerdown idx o rfl).trans (if_pos (decide_eq_true hidx))
  · exact (decode_row _ .spiPowerdown idx o rfl).trans (if_pos (decide_eq_true hidx))

/-! ### The logical states along the phases (R110) -/

section
variable {s t : State} {a : Agent} {k : Kind} {idx : BitVec 4}

theorem index_lt_of_exec_bringupOf (h : exec (bringupOf k idx) s = .next t) : idx.toNat < instances s.params k := by
  cases k <;> exact of_decide_eq_true (checkIndex_next h).1

theorem index_lt_of_exec_powerdownOf (h : exec (powerdownOf k idx) s = .next t) : idx.toNat < instances s.params k := by
  cases k <;> exact of_decide_eq_true (checkIndex_next h).1

theorem reg_of_writesOn {r : Reg} {w : Word} {n : Nat} (h : s.writesOn (.next t) a r w n) : t.reg r = w := by
  obtain ⟨_, ht, ⟨hreg, -⟩, -⟩ := h
  cases ht
  exact hreg

theorem reg_of_writesLast {r : Reg} {w : Word} (h : s.writesLast (.next t) a r w) : t.reg r = w := by
  obtain ⟨_, ht, ⟨hreg, -⟩, -⟩ := h
  cases ht
  exact hreg

theorem logicalState_of_holdInReset {v : Word} (h : t.reg (bgr k) = holdInReset idx v) :
    t.logicalState k idx = .heldInReset := by
  rw [State.logicalState, h, (holdInReset_heldBits idx v).logicalState]

theorem logicalState_of_letRun {v : Word} (h : t.reg (bgr k) = letRun idx v) : t.logicalState k idx = .running := by
  rw [State.logicalState, h, (letRun_runningBits idx v).logicalState]

/-- Logical states are bits of the two gating registers (R22). -/
theorem logicalState_of_spiClk (h : ∀ q, q ≠ spiClk idx → t.reg q = s.reg q) (k : Kind) (j : BitVec 4) :
    t.logicalState k j = s.logicalState k j := by
  have hne : bgr k ≠ spiClk idx := by cases k <;> unfold spiClk <;> split <;> nofun
  simp only [State.logicalState, h _ hne]

/-- No phase of a configure writes another register than its own. -/
theorem configure_keeps_other {r q : Reg} (hq : q ≠ r) {src : SpiClockSource} {m : Nat} {n : FactorN}
    (h : configure r.off src m n s = .next t) : t.reg q = s.reg q := by
  obtain ⟨a, -, hk⟩ := inFlight_next h
  split at hk
  · split at hk
    · cases hk
      exact s.raise_reg _ _ q
    · rw [read32_register] at hk
      cases hk
      simp
  · rw [write32_register] at hk
    cases hk
    simp [State.afterWrite_reg_other s r q _ hq]
  · cases hk

end

/-- Settles O35: the words the phases write give the states, and a configure writes no gating register. -/
theorem logicalStatesOfTheOperations : Obligations.LogicalStatesOfTheOperations := by
  intro s t a k idx
  refine ⟨fun hruns h => ?_, fun hruns h => ?_, fun hruns h => ?_, fun src m n h => ?_⟩
  · have hphase := bringupOf_holds (index_lt_of_exec_bringupOf h) hruns
    exact logicalState_of_holdInReset (reg_of_writesOn (h ▸ hphase))
  · have hphase := bringupOf_releases (index_lt_of_exec_bringupOf h) hruns
    exact logicalState_of_letRun (reg_of_writesLast (h ▸ hphase))
  · have hphase := powerdownOf_holds (index_lt_of_exec_powerdownOf h) hruns
    exact logicalState_of_holdInReset (reg_of_writesLast (h ▸ hphase))
  · have hidx : idx.toNat < nSpi := of_decide_eq_true (checkIndex_next h).1
    rw [exec_spiConfigure hidx] at h
    exact logicalState_of_spiClk fun q hq => configure_keeps_other hq h

/-! ### The new events of one agent (R48) -/

/-- The event of an access of `r` by the agent `id`. -/
def accessEvent (id : Nat) (r : Reg) (dir : Dir) (v : Word) : Event :=
  { agent := id, dir := dir, off := r.off, value := v }

/-- From `s` to `t` the history grew, and what agent `id` added to it are the events `es`. -/
def State.addsEvents (s t : State) (id : Nat) (es : List Event) : Prop :=
  ∃ h, t.history = s.history ++ h ∧ h.filter (fun e => e.agent == id) = es

section
variable {s u t : State} {id : Nat} {e : Event} {es es' h : List Event}

theorem addsEvents_refl (s : State) (id : Nat) : s.addsEvents s id [] := ⟨[], by simp, rfl⟩

theorem addsEvents_of_append (hhist : t.history = s.history ++ [e]) (he : e.agent = id) : s.addsEvents t id [e] :=
  ⟨[e], hhist, by simp [he]⟩

theorem addsEvents_of_append_other (hhist : t.history = s.history ++ [e]) (he : e.agent ≠ id) : s.addsEvents t id [] :=
  ⟨[e], hhist, by simp [he]⟩

theorem State.addsEvents.trans (h₁ : s.addsEvents u id es) (h₂ : u.addsEvents t id es') :
    s.addsEvents t id (es ++ es') := by
  obtain ⟨l₁, hhist₁, rfl⟩ := h₁
  obtain ⟨l₂, hhist₂, rfl⟩ := h₂
  exact ⟨l₁ ++ l₂, by rw [hhist₂, hhist₁, List.append_assoc], List.filter_append _ _⟩

theorem State.addsEvents.eq_filter (hadd : s.addsEvents t id es) (hhist : t.history = s.history ++ h) :
    h.filter (fun e => e.agent == id) = es := by
  obtain ⟨l, hl, rfl⟩ := hadd
  rw [List.append_cancel_left (hhist.symm.trans hl)]

end

/-! ### A step as one agent sees it (R27, R40) -/

/-- In `u` the agent with record `a` has the turn with its operation in flight, and the machine is as in `s`. -/
structure State.TurnGiven (s u : State) (a : Agent) : Prop where
  current : u.current = some a
  ids : u.idsDistinct
  params : u.params = s.params
  reg : ∀ q, u.reg q = s.reg q
  history : u.history = s.history

section
variable {s u t : State} {a : Agent} {id : Nat}

theorem step_idsDistinct (hids : s.idsDistinct) (h : step s = .next t) : t.idsDistinct := by
  obtain ⟨-, hsame, -⟩ := otherAgentsAreUntouched s t h
  unfold State.idsDistinct
  rwa [hsame]

theorem step_params (h : step s = .next t) : t.params = s.params := (otherAgentsAreUntouched s t h).1

theorem nextTurn_turnGiven (hids : s.idsDistinct) (h : s.nextTurn = some u) :
    ∃ b ∈ s.agents, ∃ a, b.begin = some a ∧ u.turn = b.id ∧ s.TurnGiven u a := by
  obtain ⟨b, hb, a, hbegin, hcurrent, hturn, -, hparams, hreg, -, hhist, -⟩ := nextTurn_spec h
  obtain ⟨-, hid, -⟩ := begin_cases hbegin
  have huids : u.idsDistinct := by
    unfold State.idsDistinct
    rw [(nextTurn_agreeOutside h).1]
    exact hids
  exact ⟨b, hb, a, hbegin, hturn.trans hid, hcurrent, huids, hparams, hreg, hhist⟩

/-- A step leaves the record of an agent without the turn alone, and its event is another's. -/
theorem step_of_other (hids : s.idsDistinct) (ha : s.agent id = some a) (h : step s = .next t) (hturn : t.turn ≠ id) :
    t.agent id = some a ∧ s.addsEvents t id [] := by
  obtain ⟨hmem, hid⟩ := agent_mem ha
  constructor
  · obtain ⟨-, -, hkept⟩ := otherAgentsAreUntouched s t h
    have ht : a ∈ t.agents.filter (fun x => x.id != t.turn) := by
      rw [hkept]
      exact List.mem_filter.mpr ⟨hmem, by simpa [hid] using hturn.symm⟩
    exact (agent_eq_some_iff (step_idsDistinct hids h)).mpr ⟨List.mem_of_mem_filter ht, hid⟩
  · cases step_access h with
    | idle hreg hhist => exact ⟨[], by simp [hhist], rfl⟩
    | read r v hv hreg hhist => exact addsEvents_of_append_other hhist hturn
    | write r v hsame hother hhist => exact addsEvents_of_append_other hhist hturn

/-- A step is another agent's, or it is the phase step of the agent's own request. -/
theorem step_agent_cases (hids : s.idsDistinct) (ha : s.agent id = some a) (h : step s = .next t) :
    t.agent id = some a ∧ s.addsEvents t id [] ∨
      ∃ b u, a.begin = some b ∧ s.TurnGiven u b ∧ runRequest b.op u = .next t := by
  obtain ⟨-, rfl⟩ | ⟨u, b, hu, hb, hrun⟩ := step_cases h
  · exact .inl ⟨ha, addsEvents_refl t id⟩
  · obtain ⟨c, hc, b', hbegin, hturn, hgiven⟩ := nextTurn_turnGiven hids hu
    obtain rfl : b = b' := Option.some.inj (hb.symm.trans hgiven.current)
    by_cases hid : c.id = id
    · obtain rfl : a = c := Option.some.inj (ha.symm.trans ((agent_eq_some_iff hids).mpr ⟨hc, hid⟩))
      exact .inr ⟨b, u, hbegin, hgiven, hrun⟩
    · obtain ⟨b', hb', e⟩ := runRequest_effect hrun
      obtain ⟨⟨-, -, hkept, -⟩, -⟩ := e.frame
      exact .inl (step_of_other hids ha h (by rwa [hkept, hturn]))

/-- The agent with the turn has the record its phase step makes of the one in flight. -/
theorem State.TurnGiven.agent (hu : s.TurnGiven u a) {f : Agent → Agent} (ht : u.turnBecomes t f)
    (hf : ∀ x, (f x).id = x.id) : t.agent a.id = some (f a) := by
  obtain ⟨hmem, hid, -, -⟩ := current_spec hu.current
  have htids : t.idsDistinct := by
    unfold State.idsDistinct
    rw [ht, (agreeOutside_update fun x hx => (hf x).trans hx).1]
    exact hu.ids
  have hfa : f a ∈ t.agents := ht ▸ List.mem_map.mpr ⟨a, hmem, if_pos hid⟩
  exact (agent_eq_some_iff htids).mpr ⟨hfa, hf a⟩

theorem State.TurnGiven.addsEvents (hu : s.TurnGiven u a) {r : Reg} {dir : Dir} {v : Word}
    (ht : t.history = u.history ++ [{ agent := u.turn, dir := dir, off := r.off, value := v }]) :
    s.addsEvents t a.id [accessEvent a.id r dir v] := by
  obtain ⟨-, hid, -⟩ := current_spec hu.current
  rw [hu.history, ← hid] at ht
  exact addsEvents_of_append ht rfl

theorem step_of_finished (hids : s.idsDistinct) (hs : s.finished id) (h : step s = .next t) :
    t.finished id ∧ s.addsEvents t id [] := by
  obtain ⟨a, ha, hdone, hrest⟩ := hs
  obtain ⟨hkept, hevents⟩ | ⟨b, u, hbegin, -, -⟩ := step_agent_cases hids ha h
  · exact ⟨⟨a, hkept, hdone, hrest⟩, hevents⟩
  · simp [Agent.begin, hdone, hrest] at hbegin

end

/-! ### Plans -/

/-- The accesses a multi-access operation still has to make of its register: a write moves a function of the value last
read (R66), and the last one ends the operation. -/
inductive Plan where
  | read (next : Plan)
  | write (f : Word → Word) (next : Plan)
  | lastWrite (f : Word → Word)

/-- How many accesses are left, and so how many turns. -/
def Plan.length : Plan → Nat
  | .read next => next.length + 1
  | .write _ next => next.length + 1
  | .lastWrite _ => 1

/-- The function the last write moves. -/
def Plan.last : Plan → Word → Word
  | .read next => next.last
  | .write _ next => next.last
  | .lastWrite f => f

/-- What the plan's accesses leave in the history, when `v` is the value last read. -/
def Plan.leaves (id : Nat) (r : Reg) : Plan → Word → List Event → Prop
  | .read next, _, es => ∃ x es', es = accessEvent id r .read x :: es' ∧ next.leaves id r x es'
  | .write f next, v, es => ∃ es', es = accessEvent id r .write (f v) :: es' ∧ next.leaves id r v es'
  | .lastWrite f, v, es => es = [accessEvent id r .write (f v)]

/-- From phase `k` on the operation `i` makes the accesses of the plan, one in each phase (R27). -/
def followsPlan (p : Params) (i : Instr) (r : Reg) : Nat → Plan → Prop
  | k, .read next =>
    (∀ (s : State) (a : Agent), s.params = p → s.runs a k → s.readsOn (exec i s) r (k + 1)) ∧
      followsPlan p i r (k + 1) next
  | k, .write f next =>
    (∀ (s : State) (a : Agent), s.params = p → s.runs a k → s.writesOn (exec i s) a r (f a.tmp) (k + 1)) ∧
      followsPlan p i r (k + 1) next
  | k, .lastWrite f => ∀ (s : State) (a : Agent), s.params = p → s.runs a k → s.writesLast (exec i s) a r (f a.tmp)

/-- The plan of a bring-up (R102, R103). -/
def bringupPlan (idx : BitVec 4) : Plan := .read (.write (holdInReset idx) (.read (.lastWrite (letRun idx))))

/-- The plan of a power-down (R104, R105). -/
def powerdownPlan (idx : BitVec 4) : Plan := .read (.lastWrite (holdInReset idx))

/-- The plan of a configure that does not fault (R111). -/
def configurePlan (src : SpiClockSource) (m : Nat) (n : FactorN) : Plan := .read (.lastWrite (configured · src m n))

section
variable {p : Params} {k : Kind} {idx : BitVec 4}

theorem bringupOf_followsPlan (hidx : idx.toNat < instances p k) :
    followsPlan p (bringupOf k idx) (bgr k) 0 (bringupPlan idx) := by
  refine ⟨?_, ?_, ?_, ?_⟩ <;> rintro s a rfl h
  · exact bringupOf_reads hidx h
  · exact bringupOf_holds hidx h
  · exact bringupOf_rereads hidx h
  · exact bringupOf_releases hidx h

theorem powerdownOf_followsPlan (hidx : idx.toNat < instances p k) :
    followsPlan p (powerdownOf k idx) (bgr k) 0 (powerdownPlan idx) := by
  refine ⟨?_, ?_⟩ <;> rintro s a rfl h
  · exact powerdownOf_reads hidx h
  · exact powerdownOf_holds hidx h

theorem spiConfigure_followsPlan (hidx : idx.toNat < nSpi) (src : SpiClockSource) {m : Nat} (hm : m ≤ 15)
    (n : FactorN) : followsPlan p (.spiConfigure idx src m n) (spiClk idx) 0 (configurePlan src m n) :=
  ⟨fun _ _ _ h => spiConfigure_reads hidx hm h, fun _ _ _ h => spiConfigure_writes hidx h⟩

end

/-- The agent runs its last operation, which still has the accesses of `plan` to make. -/
structure Agent.OnPlan (a : Agent) (p : Params) (r : Reg) (plan : Plan) : Prop where
  instr : ∃ d o i, a.op = .op d o ∧ decode p.nUart d o = .ok i ∧ followsPlan p i r a.ph plan
  rest : a.rest = []
  notDone : a.done = false
  notStopped : a.stopped = false

/-- From `s` to `t` the agent `id`, with `v` the value last read, makes the first access of the plan. -/
def State.makesAccess (s t : State) (id : Nat) (r : Reg) : Plan → Word → Prop
  | .read next, _ => ∃ b, t.agent id = some b ∧ b.OnPlan s.params r next ∧
      s.addsEvents t id [accessEvent id r .read b.tmp]
  | .write f next, v => ∃ b, t.agent id = some b ∧ b.OnPlan s.params r next ∧ b.tmp = v ∧
      s.addsEvents t id [accessEvent id r .write (f v)]
  | .lastWrite f, v => t.finished id ∧ t.reg r = f v ∧ s.addsEvents t id [accessEvent id r .write (f v)]

section
variable {s t u : State} {a : Agent} {id : Nat} {r : Reg} {plan : Plan}

theorem onPlan_of_starts {i : Instr} (h : s.starts id i) (hplan : followsPlan s.params i r 0 plan) :
    ∃ a, s.agent id = some a ∧ a.OnPlan s.params r plan := by
  obtain ⟨a, d, o, ha, hop, hd, hrest, hph, hdone, hstopped⟩ := h
  exact ⟨a, ha, ⟨d, o, i, hop, hd, hph.symm ▸ hplan⟩, hrest, hdone, hstopped⟩

theorem Agent.OnPlan.begin_eq (h : a.OnPlan s.params r plan) : a.begin = some a := by
  simp [Agent.begin, h.notStopped, h.notDone]

theorem Agent.OnPlan.not_finished (ha : s.agent id = some a) (h : a.OnPlan s.params r plan) : ¬s.finished id := by
  rintro ⟨b, hb, hdone, -⟩
  obtain rfl : a = b := Option.some.inj (ha.symm.trans hb)
  exact absurd (h.notDone.symm.trans hdone) nofun

/-- An agent on a plan makes its next access when it has the turn, and no register but `r` changes. -/
theorem Agent.OnPlan.turn (h : a.OnPlan s.params r plan) (hu : s.TurnGiven u a) :
    ∃ t, runRequest a.op u = .next t ∧ s.makesAccess t a.id r plan a.tmp ∧ t.sched = u.sched ∧
      ∀ q, q ≠ r → t.reg q = s.reg q := by
  obtain ⟨⟨d, o, i, hop, hd, hplan⟩, hrest, hdone, hstopped⟩ := h
  have hexec : runRequest a.op u = exec i u := by simp only [hop, runRequest, hu.params, hd]
  have hruns : u.runs a a.ph := ⟨hu.current, rfl⟩
  rw [hexec]
  cases plan with
  | read next =>
    obtain ⟨hread, hnext⟩ := hplan
    obtain ⟨t, v, ht, ⟨-, ⟨-, hsched, -, -⟩, ⟨hreg, -⟩, -, -, hhist⟩, -, hagents⟩ := hread u a hu.params hruns
    exact ⟨t, ht, ⟨_, hu.agent hagents fun _ => rfl, ⟨⟨d, o, i, hop, hd, hnext⟩, hrest, hdone, hstopped⟩,
      hu.addsEvents hhist⟩, hsched, fun q _ => (hreg q).trans (hu.reg q)⟩
  | write f next =>
    obtain ⟨hwrite, hnext⟩ := hplan
    obtain ⟨t, ht, ⟨-, hreg, -, ⟨-, hsched, -, -⟩, -, -, hhist⟩, -, hagents⟩ := hwrite u a hu.params hruns
    exact ⟨t, ht, ⟨_, hu.agent hagents fun _ => rfl, ⟨⟨d, o, i, hop, hd, hnext⟩, hrest, hdone, hstopped⟩, rfl,
      hu.addsEvents hhist⟩, hsched, fun q hq => (hreg q hq).trans (hu.reg q)⟩
  | lastWrite f =>
    obtain ⟨t, ht, ⟨hsame, hreg, -, ⟨-, hsched, -, -⟩, -, -, hhist⟩, -, hagents⟩ := hplan u a hu.params hruns
    exact ⟨t, ht, ⟨⟨_, hu.agent hagents fun _ => rfl, rfl, hrest⟩, hsame, hu.addsEvents hhist⟩, hsched,
      fun q hq => (hreg q hq).trans (hu.reg q)⟩

/-- In a step an agent on a plan stays where it is or makes its next access. -/
theorem Agent.OnPlan.step (h : a.OnPlan s.params r plan) (ha : s.agent id = some a) (hids : s.idsDistinct)
    (hstep : step s = .next t) :
    t.agent id = some a ∧ s.addsEvents t id [] ∨ s.makesAccess t id r plan a.tmp := by
  obtain hother | ⟨b, u, hbegin, hu, hrun⟩ := step_agent_cases hids ha hstep
  · exact .inl hother
  · obtain rfl : a = b := Option.some.inj (h.begin_eq.symm.trans hbegin)
    obtain ⟨t', ht', haccess, -, -⟩ := h.turn hu
    cases hrun.symm.trans ht'
    exact .inr ((agent_mem ha).2 ▸ haccess)

/-- An agent on a plan that the schedule names first makes its next access. -/
theorem Agent.OnPlan.step_of_sched (h : a.OnPlan s.params r plan) (ha : s.agent id = some a) (hids : s.idsDistinct)
    {l : List Nat} (hsched : s.sched = id :: l) :
    ∃ t, Machine.step s = .next t ∧ s.makesAccess t id r plan a.tmp ∧ t.sched = l ∧ ∀ q, q ≠ r → t.reg q = s.reg q := by
  have hnext : s.nextTurn = some (s.giveTurn a l) := nextTurn_of_sched hsched ha h.begin_eq
  have hcurrent : (s.giveTurn a l).current = some a := giveTurn_current (agent_mem ha).1 h.begin_eq l
  obtain ⟨b, -, b', -, -, hu⟩ := nextTurn_turnGiven hids hnext
  obtain rfl : a = b' := Option.some.inj (hcurrent.symm.trans hu.current)
  obtain ⟨t, hrun, haccess, hts, hreg⟩ := h.turn hu
  refine ⟨t, ?_, (agent_mem ha).2 ▸ haccess, hts, hreg⟩
  simp only [Machine.step, hnext, runTurn, hcurrent, hrun]

end

/-! ### Runs (R106, R108, R109, R110, R145) -/

/-- The first step of a run, and the rest. -/
theorem run_succ {s t : State} {n : Nat} (h : Host.Core.run Sys2Proof.core (n + 1) s = .next t) :
    ∃ u, step s = .next u ∧ Host.Core.run Sys2Proof.core n u = .next t := by
  cases hs : step s with
  | next u => exact ⟨u, rfl, run_succ_of_step hs n ▸ h⟩
  | fault e => simp [Host.Core.run, Sys2Proof.core, hs] at h
  | refused e => simp [Host.Core.run, Sys2Proof.core, hs] at h

/-- A finished agent makes no access in any run. -/
theorem run_addsEvents_nil_of_finished {s t : State} {id n : Nat} (hids : s.idsDistinct) (hs : s.finished id)
    (hrun : Host.Core.run Sys2Proof.core n s = .next t) : s.addsEvents t id [] := by
  induction n generalizing s with
  | zero =>
    cases hrun
    exact addsEvents_refl _ id
  | succ n ih =>
    obtain ⟨u, hstep, hrun⟩ := run_succ hrun
    obtain ⟨hu, hevents⟩ := step_of_finished hids hs hstep
    exact hevents.trans (ih (step_idsDistinct hids hstep) hu hrun)

/-- An agent on a plan that finishes in a run made the plan's accesses in it and no others, whatever the others did. -/
theorem run_events_of_onPlan {s t : State} {a : Agent} {id n : Nat} {r : Reg} {plan : Plan} (hids : s.idsDistinct)
    (ha : s.agent id = some a) (h : a.OnPlan s.params r plan) (hrun : Host.Core.run Sys2Proof.core n s = .next t)
    (hfin : t.finished id) : ∃ es, s.addsEvents t id es ∧ plan.leaves id r a.tmp es := by
  induction n generalizing s a plan with
  | zero =>
    cases hrun
    exact absurd hfin (h.not_finished ha)
  | succ n ih =>
    obtain ⟨u, hstep, hrun⟩ := run_succ hrun
    have huids : u.idsDistinct := step_idsDistinct hids hstep
    have hparams : u.params = s.params := step_params hstep
    obtain ⟨hkept, hnone⟩ | haccess := h.step ha hids hstep
    · obtain ⟨es, hes, hleaves⟩ := ih huids hkept (hparams ▸ h) hrun
      exact ⟨es, hnone.trans hes, hleaves⟩
    · cases plan with
      | read next =>
        obtain ⟨b, hb, hnext, hevent⟩ := haccess
        obtain ⟨es, hes, hleaves⟩ := ih huids hb (hparams ▸ hnext) hrun
        exact ⟨_, hevent.trans hes, b.tmp, es, rfl, hleaves⟩
      | write f next =>
        obtain ⟨b, hb, hnext, htmp, hevent⟩ := haccess
        obtain ⟨es, hes, hleaves⟩ := ih huids hb (hparams ▸ hnext) hrun
        exact ⟨_, hevent.trans hes, es, rfl, htmp ▸ hleaves⟩
      | lastWrite f =>
        obtain ⟨hdone, -, hevent⟩ := haccess
        exact ⟨_, hevent.trans (run_addsEvents_nil_of_finished huids hdone hrun), rfl⟩

/-- Settles O32: the plans of the two operations, access by access. -/
theorem sequencerEvents : Obligations.SequencerEvents := by
  intro n s t h k idx id hids hidx hrun hhist hfin
  constructor <;> intro hstart
  · obtain ⟨a, ha, hplan⟩ := onPlan_of_starts hstart (bringupOf_followsPlan hidx)
    obtain ⟨es, hes, v0, _, rfl, _, rfl, v1, _, rfl, rfl⟩ := run_events_of_onPlan hids ha hplan hrun hfin
    exact ⟨v0, _, v1, _, holdInReset_heldBits idx v0, letRun_runningBits idx v1, hes.eq_filter hhist⟩
  · obtain ⟨a, ha, hplan⟩ := onPlan_of_starts hstart (powerdownOf_followsPlan hidx)
    obtain ⟨es, hes, v0, _, rfl, rfl⟩ := run_events_of_onPlan hids ha hplan hrun hfin
    exact ⟨v0, _, holdInReset_heldBits idx v0, hes.eq_filter hhist⟩

/-- An agent on a plan that the schedule names for all of it finishes, and its register holds what the last write
moved. -/
theorem run_of_onPlan_of_sched {s : State} {a : Agent} {id : Nat} {r : Reg} {plan : Plan} {l : List Nat}
    (hids : s.idsDistinct) (ha : s.agent id = some a) (h : a.OnPlan s.params r plan)
    (hsched : s.sched = List.replicate plan.length id ++ l) :
    ∃ t, Host.Core.run Sys2Proof.core plan.length s = .next t ∧ t.finished id ∧ (∃ v, t.reg r = plan.last v) ∧
      ∀ q, q ≠ r → t.reg q = s.reg q := by
  induction plan generalizing s a with
  | read next ih | write f next ih =>
    obtain ⟨u, hstep, ⟨b, hb, hnext, -⟩, hu, hother⟩ := h.step_of_sched ha hids hsched
    obtain ⟨t, hrun, hfin, hreg, hkept⟩ := ih (step_idsDistinct hids hstep) hb (step_params hstep ▸ hnext) hu
    exact ⟨t, (run_succ_of_step hstep _).trans hrun, hfin, hreg, fun q hq => (hkept q hq).trans (hother q hq)⟩
  | lastWrite f =>
    obtain ⟨t, hstep, ⟨hfin, hreg, -⟩, -, hother⟩ := h.step_of_sched ha hids hsched
    exact ⟨t, run_succ_of_step hstep 0, hfin, ⟨a.tmp, hreg⟩, hother⟩

/-- Settles O34: each operation follows its plan, and the last write gives its logical state. -/
theorem operationsFinishInTheirPhases : Obligations.OperationsFinishInTheirPhases := by
  intro s id l idx hs
  refine ⟨fun k hidx hstart hsched => ?_, fun k hidx hstart hsched => ?_, fun src m n hm hstart hsched => ?_⟩
  · obtain ⟨a, ha, hplan⟩ := onPlan_of_starts hstart (bringupOf_followsPlan hidx)
    obtain ⟨t, hrun, hfin, ⟨v, hreg⟩, -⟩ := run_of_onPlan_of_sched hs.ids ha hplan hsched
    exact ⟨t, hrun, hfin, logicalState_of_letRun hreg⟩
  · obtain ⟨a, ha, hplan⟩ := onPlan_of_starts hstart (powerdownOf_followsPlan hidx)
    obtain ⟨t, hrun, hfin, ⟨v, hreg⟩, -⟩ := run_of_onPlan_of_sched hs.ids ha hplan hsched
    exact ⟨t, hrun, hfin, logicalState_of_holdInReset hreg⟩
  · have hidx : idx.toNat < nSpi := by
      obtain ⟨_, _, _, -, -, hd, -⟩ := hstart
      exact of_decide_eq_true (decode_wf hd)
    obtain ⟨a, ha, hplan⟩ := onPlan_of_starts hstart (spiConfigure_followsPlan hidx src hm n)
    obtain ⟨t, hrun, hfin, -, hother⟩ := run_of_onPlan_of_sched hs.ids ha hplan hsched
    exact ⟨t, hrun, hfin, logicalState_of_spiClk hother⟩

/-! ### The end state of an undisturbed run (R19, R107) -/

/-- The register `r`, with the defined bits of `m`, goes from `v` to `w` over the events: a read gets its defined bits
as they are and a write replaces it (R19, R36). -/
def storedOver (m : Word) (r : Reg) : Word → List Event → Word → Prop
  | v, [], w => w = v
  | v, e :: es, w =>
    if e.off = r.off then
      match e.dir with
      | .read => (∀ j, m.getLsbD j = true → e.value.getLsbD j = v.getLsbD j) ∧ storedOver m r v es w
      | .write => storedOver m r e.value es w
    else storedOver m r v es w

/-- Only the accesses of the register matter. -/
theorem storedOver_filter {m : Word} {r : Reg} {v w : Word} {h : List Event} :
    storedOver m r v (h.filter fun e => e.off == r.off) w ↔ storedOver m r v h w := by
  induction h generalizing v with
  | nil => exact Iff.rfl
  | cons e es ih =>
    by_cases hoff : e.off = r.off
    · cases hdir : e.dir <;> simp [storedOver, hoff, hdir, ih]
    · simp [storedOver, hoff, ih]

/-- One step, and then the rest of the events. -/
theorem storedOver_step {s u : State} {r : Reg} {w : Word} {h : List Event} (hm : s.params.externalMutation = false)
    (hstep : step s = .next u) (hrest : storedOver (r.definedMask s.params.nUart) r (u.reg r) h w) :
    ∃ es, u.history = s.history ++ es ∧ storedOver (r.definedMask s.params.nUart) r (s.reg r) (es ++ h) w := by
  cases step_access hstep with
  | idle hreg hhist => exact ⟨[], by simp [hhist], hreg r ▸ hrest⟩
  | read q v hv hreg hhist =>
    refine ⟨_, hhist, ?_⟩
    rw [hreg] at hrest
    by_cases hq : q = r
    · subst hq
      simp only [List.singleton_append, storedOver, if_true]
      exact ⟨fun j hj => hv.defined hm hj, hrest⟩
    · have hoff : q.off ≠ r.off := fun hoff => hq (off_injective hoff)
      simpa [storedOver, hoff] using hrest
  | write q v hsame hother hhist =>
    refine ⟨_, hhist, ?_⟩
    by_cases hq : q = r
    · subst hq
      simpa [storedOver, hsame] using hrest
    · have hoff : q.off ≠ r.off := fun hoff => hq (off_injective hoff)
      simpa [storedOver, hoff, hother r (Ne.symm hq)] using hrest

theorem run_storedOver {s t : State} {n : Nat} (r : Reg) (hm : s.params.externalMutation = false)
    (hrun : Host.Core.run Sys2Proof.core n s = .next t) :
    ∃ h, t.history = s.history ++ h ∧ storedOver (r.definedMask s.params.nUart) r (s.reg r) h (t.reg r) := by
  induction n generalizing s with
  | zero =>
    cases hrun
    exact ⟨[], by simp, rfl⟩
  | succ n ih =>
    obtain ⟨u, hstep, hrun⟩ := run_succ hrun
    have hparams : u.params = s.params := step_params hstep
    obtain ⟨h, hhist, hstored⟩ := ih (hparams ▸ hm) hrun
    rw [hparams] at hstored
    obtain ⟨es, hes, hstored⟩ := storedOver_step hm hstep hstored
    exact ⟨es ++ h, by rw [hhist, hes, List.append_assoc], hstored⟩

/-- When one agent alone accesses the register, its events account for the register. -/
theorem storedOver_of_alone {m : Word} {r : Reg} {v w : Word} {h es : List Event} {id : Nat}
    (hstored : storedOver m r v h w) (halone : ∀ e ∈ h, e.off = r.off → e.agent = id)
    (hes : h.filter (fun e => e.agent == id) = es) (hoff : ∀ e ∈ es, e.off = r.off) : storedOver m r v es w := by
  have hsame : h.filter (fun e => e.off == r.off) = es := by
    rw [← hes]
    refine List.filter_congr fun e he => Bool.eq_iff_iff.mpr ?_
    simp only [beq_iff_eq]
    exact ⟨halone e he, fun hid => hoff e (hes ▸ List.mem_filter.mpr ⟨he, by simpa using hid⟩)⟩
  exact hsame ▸ storedOver_filter.mpr hstored

/-- Settles O31: the agent's events are those of SequencerEvents, and they alone account for the register. -/
theorem sequencerEndState : Obligations.SequencerEndState := by
  intro n s t h k idx id hm hids hidx hrun hhist halone hfin
  obtain ⟨hup, hdown⟩ := sequencerEvents n s t h k idx id hids hidx hrun hhist hfin
  have hstored : storedOver ((bgr k).definedMask s.params.nUart) (bgr k) (s.reg (bgr k)) h (t.reg (bgr k)) := by
    obtain ⟨h', hhist', hstored⟩ := run_storedOver (bgr k) hm hrun
    rwa [List.append_cancel_left (hhist.symm.trans hhist')]
  constructor <;> intro hstart
  · obtain ⟨v0, w0, v1, w1, hheld, hrunning, hes⟩ := hup hstart
    obtain ⟨hv0, hv1, hw⟩ : _ ∧ _ ∧ t.reg (bgr k) = w1 := by
      simpa [storedOver] using storedOver_of_alone hstored halone hes (by simp)
    rw [hw]
    refine ⟨(hrunning _ (by omega)).trans (if_pos (.inl rfl)), (hrunning _ (by omega)).trans (if_pos (.inr rfl)),
      fun j hj hgate hreset => ?_⟩
    have hj32 : j < 32 := BitVec.lt_of_getLsbD hj
    have hout : ¬(j = idx.toNat ∨ j = idx.toNat + 16) := not_or.mpr ⟨hgate, hreset⟩
    rw [hrunning j hj32, if_neg hout, hv1 j hj, hheld j hj32, if_neg hout, hv0 j hj]
  · obtain ⟨v0, w0, hheld, hes⟩ := hdown hstart
    obtain ⟨hv0, hw⟩ : _ ∧ t.reg (bgr k) = w0 := by
      simpa [storedOver] using storedOver_of_alone hstored halone hes (by simp)
    rw [hw]
    refine ⟨(hheld _ (by omega)).trans (if_pos (.inl rfl)), (hheld _ (by omega)).trans (if_pos (.inr rfl)),
      fun j hj hgate hreset => ?_⟩
    rw [hheld j (BitVec.lt_of_getLsbD hj), if_neg (not_or.mpr ⟨hgate, hreset⟩), hv0 j hj]

end Sys2Proof.Machine
end

section
/-! PROOFS of the statements of 44_configurator.md. The word a configure writes is the word it read with the three clock
fields set (R111). A divider above 15 faults before the read, and an agent that faults never finishes, so the divider of
a configure that finishes is at most 15, and its events are those of its plan (R113). -/

namespace Sys2Proof.Machine

open Sys2Proof

/-! ### The word a configure writes (R111) -/

/-- `v` with the three clock fields set, and nothing else (R111, R113). -/
def configuredBits (src : SpiClockSource) (m : Nat) (n : FactorN) (v w : Word) : Prop :=
  w.extractLsb' 24 3 = encodeSrc src ∧ w.extractLsb' 8 2 = encodeN n ∧ (w.extractLsb' 0 4).toNat = m ∧
    ∀ j, j < 32 → ¬(j < 4 ∨ 8 ≤ j ∧ j < 10 ∨ 24 ≤ j ∧ j < 27) → w.getLsbD j = v.getLsbD j

section
variable (v : Word) (src : SpiClockSource) {m : Nat} (n : FactorN)

theorem sourceField_configured : sourceField (configured v src m n) = encodeSrc src := sourceField_sourceSet _ src

theorem nField_configured : getField (configured v src m n) 8 2 = encodeN n :=
  calc getField (configured v src m n) 8 2
    _ = getField (mSet (nSet v n) m) 8 2 := getField_setField_other (by decide) _ _ (by decide) (by decide)
    _ = getField (nSet v n) 8 2 := getField_setField_other (by decide) _ _ (by decide) (by decide)
    _ = encodeN n := nField_nSet v n

theorem mGet_configured (hm : m ≤ 15) : (mGet (configured v src m n)).toNat = m :=
  calc (mGet (configured v src m n)).toNat
    _ = (mGet (mSet (nSet v n) m)).toNat :=
      congrArg BitVec.toNat (getField_setField_other (by decide) _ _ (by decide) (by decide))
    _ = m := mGet_mSet _ hm

theorem configured_bit_outside {j : Nat} (hj : j < 32) (h : ¬(j < 4 ∨ 8 ≤ j ∧ j < 10 ∨ 24 ≤ j ∧ j < 27)) :
    (configured v src m n).getLsbD j = v.getLsbD j :=
  calc (configured v src m n).getLsbD j
    _ = (mSet (nSet v n) m).getLsbD j := setField_bit_outside (by decide) _ _ hj (by omega)
    _ = (nSet v n).getLsbD j := setField_bit_outside (by decide) _ _ hj (by omega)
    _ = v.getLsbD j := setField_bit_outside (by decide) _ _ hj (by omega)

theorem configured_configuredBits (hm : m ≤ 15) : configuredBits src m n v (configured v src m n) := by
  unfold configuredBits
  rw [← getField_eq_extractLsb' _ 24 (by decide), ← getField_eq_extractLsb' _ 8 (by decide),
    ← getField_eq_extractLsb' _ 0 (by decide)]
  exact ⟨sourceField_configured v src n, nField_configured v src n, mGet_configured v src n hm,
    fun _ => configured_bit_outside v src n⟩

end

/-! ### The phases (R111, R112) -/

/-- A divider above 15 faults before the read (R118). -/
theorem spiConfigure_raises {s : State} {a : Agent} {idx : BitVec 4} (hidx : idx.toNat < nSpi) (src : SpiClockSource)
    {m : Nat} (hm : 15 < m) (n : FactorN) (h : s.runs a 0) :
    s.raises (exec (.spiConfigure idx src m n) s) .precondM (.divider m) := by
  rw [exec_spiConfigure hidx]
  simp only [configure, inFlight_current h.1, h.2, if_pos hm]
  exact raises_next s _ _

/-- Settles O29: a read and a write of the clock register of the index, and the fault that the divider's check raises. -/
theorem configurePhases : Obligations.ConfigurePhases := by
  intro s a idx src m n hidx x r
  refine ⟨spiClk_off hidx, decodeOfEncodeIsTheInstruction _ (.spiConfigure idx src m n) (decide_eq_true hidx),
    fun b d o hop hd hdone hph => window_eq_some_iff.mpr ⟨hdone, hph, d, o, _, hop, hd, rfl⟩,
    fun h hm => spiConfigure_raises hidx src hm n h, fun h hm => spiConfigure_reads hidx hm h, fun h hm => ?_⟩
  obtain ⟨hsrc, hn, hm', hother⟩ := configured_configuredBits a.tmp src n hm
  exact ⟨_, hsrc, hn, hm', hother, spiConfigure_writes hidx h⟩

/-! ### An operation that faults never finishes (R115, R123) -/

/-- A fault has stopped the agent before its operation was done, or the next phase step of its operation raises one. -/
structure Agent.Faulting (a : Agent) (p : Params) : Prop where
  notDone : a.done = false
  raises : a.stopped = true ∨ ∃ d o i code info, a.op = .op d o ∧ decode p.nUart d o = .ok i ∧
    ∀ s : State, s.params = p → s.runs a a.ph → s.raises (exec i s) code info

section
variable {s t : State} {a : Agent} {id : Nat}

theorem Agent.Faulting.not_finished (ha : s.agent id = some a) (h : a.Faulting s.params) : ¬s.finished id := by
  rintro ⟨b, hb, hdone, -⟩
  obtain rfl : a = b := Option.some.inj (ha.symm.trans hb)
  exact absurd (h.notDone.symm.trans hdone) nofun

theorem Agent.Faulting.step (h : a.Faulting s.params) (ha : s.agent id = some a) (hids : s.idsDistinct)
    (hstep : Machine.step s = .next t) : ∃ b, t.agent id = some b ∧ b.Faulting s.params := by
  obtain ⟨hkept, -⟩ | ⟨b, u, hbegin, hu, hrun⟩ := step_agent_cases hids ha hstep
  · exact ⟨a, hkept, h⟩
  · obtain ⟨hnot, -, -, -, rfl | ⟨hdone, -⟩⟩ := begin_cases hbegin
    · obtain hstopped | ⟨d, o, i, code, info, hop, hd, hraises⟩ := h.raises
      · exact absurd (hnot.symm.trans hstopped) nofun
      · have hexec : runRequest b.op u = exec i u := by simp only [hop, runRequest, hu.params, hd]
        obtain ⟨t', ht', -, -, -, hagents⟩ := hraises u hu.params ⟨hu.current, rfl⟩
        cases hrun.symm.trans (hexec.trans ht')
        obtain ⟨-, rfl⟩ := agent_mem ha
        exact ⟨_, hu.agent hagents fun _ => rfl, h.notDone, .inl rfl⟩
    · exact absurd (h.notDone.symm.trans hdone) nofun

theorem run_not_finished_of_faulting {n : Nat} (hids : s.idsDistinct) (ha : s.agent id = some a)
    (h : a.Faulting s.params) (hrun : Host.Core.run Sys2Proof.core n s = .next t) : ¬t.finished id := by
  induction n generalizing s a with
  | zero =>
    cases hrun
    exact h.not_finished ha
  | succ n ih =>
    obtain ⟨u, hstep, hrun⟩ := run_succ hrun
    obtain ⟨b, hb, hfaulting⟩ := h.step ha hids hstep
    exact ih (step_idsDistinct hids hstep) hb (step_params hstep ▸ hfaulting) hrun

/-! ### The events of a configure (R113) -/

variable {idx : BitVec 4} {src : SpiClockSource} {m : Nat} {n : FactorN}

/-- The decoder admits an existing index only (R63). -/
theorem index_lt_of_starts_spiConfigure (h : s.starts id (.spiConfigure idx src m n)) : idx.toNat < nSpi := by
  obtain ⟨_, _, _, -, -, hd, -⟩ := h
  exact of_decide_eq_true (decode_wf hd)

theorem faulting_of_starts_spiConfigure (h : s.starts id (.spiConfigure idx src m n)) (hm : 15 < m) :
    ∃ a, s.agent id = some a ∧ a.Faulting s.params := by
  have hidx := index_lt_of_starts_spiConfigure h
  obtain ⟨a, d, o, ha, hop, hd, -, hph, hdone, -⟩ := h
  exact ⟨a, ha, hdone, .inr ⟨d, o, _, _, _, hop, hd, fun _ _ hruns =>
    spiConfigure_raises hidx src hm n (hph ▸ hruns)⟩⟩

theorem divider_le_of_run_finished {steps : Nat} (hids : s.idsDistinct) (h : s.starts id (.spiConfigure idx src m n))
    (hrun : Host.Core.run Sys2Proof.core steps s = .next t) (hfin : t.finished id) : m ≤ 15 := by
  refine Nat.le_of_not_lt fun hm => ?_
  obtain ⟨a, ha, hfaulting⟩ := faulting_of_starts_spiConfigure h hm
  exact run_not_finished_of_faulting hids ha hfaulting hrun hfin

end

/-- Settles O33: a configure that finishes did not fault, and its events are those of its plan. -/
theorem configureEvents : Obligations.ConfigureEvents := by
  intro steps s t h idx src m n id hids hstart hrun hhist hfin
  have hm : m ≤ 15 := divider_le_of_run_finished hids hstart hrun hfin
  have hidx : idx.toNat < nSpi := index_lt_of_starts_spiConfigure hstart
  obtain ⟨a, ha, hplan⟩ := onPlan_of_starts hstart (spiConfigure_followsPlan hidx src hm n)
  obtain ⟨es, hes, v, _, rfl, rfl⟩ := run_events_of_onPlan hids ha hplan hrun hfin
  obtain ⟨hsrc, hn, hm', hother⟩ := configured_configuredBits v src n hm
  rw [← spiClk_off hidx]
  exact ⟨hm, v, _, hsrc, hn, hm', hother, hes.eq_filter hhist⟩

end Sys2Proof.Machine
end

section
/-! PROOFS of the statements of 60_exceptions.md. A fault of the spec is a record in FAULTS that stops its agent and
changes nothing else (R115, R123, R124), and a refused operation never becomes an agent's (R121). So from a state with
the invariant every step leads to a next state: the operation in flight decodes, its index exists and its phase counter
names one of its phases, and every phase of an operation answers a next state. -/

namespace Sys2Proof.Machine

open Sys2Proof

/-! ### Every phase of an operation leads to a next state (R27, R121) -/

/-- The step with outcome `x` leads to a next state. -/
def goesOn (x : Outcome) : Prop := ∃ t, x = .next t

section
variable {s : State} {a : Agent}

theorem State.raises.goesOn {x : Outcome} {code : FaultCode} {info : FaultInfo} (h : s.raises x code info) : goesOn x :=
  h.imp fun _ ht => ht.1

theorem State.givesPure.goesOn {x : Outcome} {res : Result} (h : s.givesPure x a res) : goesOn x :=
  h.imp fun _ ht => ht.1

theorem State.readsOn.goesOn {x : Outcome} {r : Reg} {k : Nat} (h : s.readsOn x r k) : goesOn x :=
  h.imp fun _ ⟨_, ht, _⟩ => ht

theorem State.writesLast.goesOn {x : Outcome} {r : Reg} {w : Word} (h : s.writesLast x a r w) : goesOn x :=
  h.imp fun _ ht => ht.1

theorem bringupOf_goesOn {k : Kind} {idx : BitVec 4} (hidx : idx.toNat < instances s.params k)
    (ha : s.current = some a) (hph : a.ph < 4) : goesOn (exec (bringupOf k idx) s) := by
  rw [exec_bringupOf hidx]
  obtain h | h | h | h : a.ph = 0 ∨ a.ph = 1 ∨ a.ph = 2 ∨ a.ph = 3 := by omega
  · exact ⟨_, bringup_read ⟨ha, h⟩ _ idx⟩
  · exact ⟨_, bringup_hold ⟨ha, h⟩ _ idx⟩
  · exact ⟨_, bringup_reread ⟨ha, h⟩ _ idx⟩
  · exact ⟨_, bringup_release ⟨ha, h⟩ _ idx⟩

theorem powerdownOf_goesOn {k : Kind} {idx : BitVec 4} (hidx : idx.toNat < instances s.params k)
    (ha : s.current = some a) (hph : a.ph < 2) : goesOn (exec (powerdownOf k idx) s) := by
  rw [exec_powerdownOf hidx]
  obtain h | h : a.ph = 0 ∨ a.ph = 1 := by omega
  · exact ⟨_, powerdown_read ⟨ha, h⟩ _ idx⟩
  · exact ⟨_, powerdown_hold ⟨ha, h⟩ _ idx⟩

/-- A configure goes on from phase 0 with a fault where its divider is above 15 (R112, R118). -/
theorem spiConfigure_goesOn {idx : BitVec 4} (hidx : idx.toNat < nSpi) (src : SpiClockSource) (m : Nat) (n : FactorN)
    (ha : s.current = some a) (hph : a.ph < 2) : goesOn (exec (.spiConfigure idx src m n) s) := by
  obtain h | h : a.ph = 0 ∨ a.ph = 1 := by omega
  · obtain hm | hm := Nat.lt_or_ge 15 m
    · exact (spiConfigure_raises hidx src hm n ⟨ha, h⟩).goesOn
    · exact (spiConfigure_reads hidx hm ⟨ha, h⟩).goesOn
  · exact (spiConfigure_writes hidx ⟨ha, h⟩).goesOn

theorem spiclkSourceGet_goesOn (v : Word) (h : s.runs a 0) : goesOn (exec (.spiclkSourceGet v) s) := by
  cases hsrc : sourceGet v with
  | some src => exact (sourceGet_givesPure h hsrc).goesOn
  | none => exact (sourceGet_raises h hsrc).goesOn

theorem spiclkMSet_goesOn (v : Word) (m : Nat) (h : s.runs a 0) : goesOn (exec (.spiclkMSet v m) s) := by
  obtain hm | hm := Nat.lt_or_ge 15 m
  · exact (mSet_raises h hm).goesOn
  · exact (mSet_givesPure h hm).goesOn

/-- Each phase of an admitted operation leads to a next state. -/
theorem exec_goesOn {i : Instr} (hi : i.wf s.params.nUart = true) (ha : s.current = some a) (hph : a.ph < phases i) :
    goesOn (exec i s) := by
  have single (h : a.ph < 1) : s.runs a 0 := ⟨ha, Nat.lt_one_iff.mp h⟩
  cases i with
  | uartBringup idx => exact bringupOf_goesOn (k := .uart) (of_decide_eq_true hi) ha hph
  | spiBringup idx => exact bringupOf_goesOn (k := .spi) (of_decide_eq_true hi) ha hph
  | uartPowerdown idx => exact powerdownOf_goesOn (k := .uart) (of_decide_eq_true hi) ha hph
  | spiPowerdown idx => exact powerdownOf_goesOn (k := .spi) (of_decide_eq_true hi) ha hph
  | spiConfigure idx src m n => exact spiConfigure_goesOn (of_decide_eq_true hi) src m n ha hph
  | rdUartBgr => exact ⟨_, busRead_runs (single hph) .uartBgr⟩
  | rdSpiClk0 => exact ⟨_, busRead_runs (single hph) .spiClk0⟩
  | rdSpiClk1 => exact ⟨_, busRead_runs (single hph) .spiClk1⟩
  | rdSpiBgr => exact ⟨_, busRead_runs (single hph) .spiBgr⟩
  | wrUartBgr v => exact ⟨_, busWrite_runs (single hph) .uartBgr v⟩
  | wrSpiClk0 v => exact ⟨_, busWrite_runs (single hph) .spiClk0 v⟩
  | wrSpiClk1 v => exact ⟨_, busWrite_runs (single hph) .spiClk1 v⟩
  | wrSpiBgr v => exact ⟨_, busWrite_runs (single hph) .spiBgr v⟩
  | spiclkSourceGet v => exact spiclkSourceGet_goesOn v (single hph)
  | spiclkMSet v m => exact spiclkMSet_goesOn v m (single hph)
  | uartGateMask | uartGatePass | uartAssertReset | uartDeassertReset | uartGateGet | uartResetGet | spiGateMask
  | spiGatePass | spiAssertReset | spiDeassertReset | spiGateGet | spiResetGet | spiclkSourceSet | spiclkNGet
  | spiclkNSet | spiclkMGet => exact ⟨_, pureOp_runs (single hph) _⟩

theorem rawRead_goesOn (addr width : Nat) (h : s.runs a 0) : goesOn (rawRead addr width s) := by
  cases hs : selectReg s.params addr width with
  | ok r => exact ⟨_, by rw [rawRead, oneStep_runs h, memRead_ok hs]⟩
  | error e => exact (rawRead_raises h hs).goesOn

theorem rawWrite_goesOn (addr width : Nat) (v : Word) (h : s.runs a 0) : goesOn (rawWrite addr width v s) := by
  cases hs : selectReg s.params addr width with
  | ok r => exact ⟨_, by rw [rawWrite, oneStep_runs h, memWrite_ok hs]⟩
  | error e => exact (rawWrite_raises h v hs).goesOn

theorem phases_pos (i : Instr) : 0 < phases i := by cases i <;> simp [phases]

theorem phaseCount_pos (nUart : Nat) (r : Request) : 0 < Request.phaseCount nUart r := by
  unfold Request.phaseCount
  cases Request.instr nUart r with
  | none => exact Nat.one_pos
  | some i => exact phases_pos i

/-- The phase counter of an operation in flight names one of its phases. -/
theorem ph_lt_phaseCount {nUart : Nat} (hok : phaseOk nUart a = true) (hdone : a.done = false) :
    a.ph < Request.phaseCount nUart a.op := by
  obtain hd | hph | hph := phaseOk_iff.mp hok
  · exact absurd (hdone.symm.trans hd) nofun
  · exact hph ▸ phaseCount_pos nUart a.op
  · exact hph

/-- The request in flight leads to a next state when it is admitted and the phase counter names one of its phases. -/
theorem runRequest_goesOn (ha : s.current = some a) (hok : rejection s.params.nUart a.op = none)
    (hph : a.ph < Request.phaseCount s.params.nUart a.op) : goesOn (runRequest a.op s) := by
  revert hok hph
  cases a.op with
  | op d o =>
    intro hok hph
    cases hd : decode s.params.nUart d o with
    | ok i =>
      simp only [Request.phaseCount, Request.instr, hd, Except.toOption, Option.map_some, Option.getD_some] at hph
      simpa only [runRequest, hd] using exec_goesOn (decode_wf hd) ha hph
    | error e => simp [rejection, hd] at hok
  | rawRead addr width => exact fun _ hph => rawRead_goesOn addr width ⟨ha, Nat.lt_one_iff.mp hph⟩
  | rawWrite addr width v => exact fun _ hph => rawWrite_goesOn addr width v ⟨ha, Nat.lt_one_iff.mp hph⟩

/-- What an agent of a state with the invariant has in flight is admitted (R121). -/
theorem State.Inv.op_admitted (h : s.Inv) (ha : a ∈ s.agents) : rejection s.params.nUart a.op = none :=
  firstRejection_none.mp (h.admitted a ha) a.op List.mem_cons_self

/-- Every step from a state with the invariant leads to a next state. -/
theorem step_goesOn (hs : s.Inv) : goesOn (step s) := by
  unfold step
  cases hu : s.nextTurn with
  | none => exact ⟨s, rfl⟩
  | some u =>
    obtain ⟨-, -, a, -, ha, -⟩ := nextTurn_spec hu
    obtain ⟨hmem, -, hdone, -⟩ := current_spec ha
    have hinv : u.Inv := nextTurn_inv hu hs
    simpa only [runTurn, ha] using
      runRequest_goesOn ha (hinv.op_admitted hmem) (ph_lt_phaseCount (hinv.phases a hmem) hdone)

end

/-- Settles O48: by induction on the run; each step answers a next state and keeps the invariant. -/
theorem runsNeverStopByThemselves : Obligations.RunsNeverStopByThemselves := by
  intro steps
  induction steps with
  | zero => exact fun s hs => ⟨s, rfl, hs⟩
  | succ n ih =>
    intro s hs
    obtain ⟨u, hu⟩ := step_goesOn hs
    obtain ⟨t, hrun, ht⟩ := ih u (everyStepKeepsTheInvariant s u hs hu)
    exact ⟨t, (run_succ_of_step hu n).trans hrun, ht⟩

/-! ### Stopped agents and the precision of a fault (R115, R123, R124) -/

theorem begin_eq_none_of_stopped {a : Agent} (h : a.stopped = true) : a.begin = none := if_pos h

/-- Settles O41: a step that touched the record would have begun the stopped agent's next step. -/
theorem stoppedAgentsStayStopped : Obligations.StoppedAgentsStayStopped := by
  intro s t hids h a ha hstopped
  obtain ⟨hkept, -⟩ | ⟨b, -, hbegin, -⟩ := step_agent_cases hids ((agent_eq_some_iff hids).mpr ⟨ha, rfl⟩) h
  · exact (agent_mem hkept).1
  · cases (begin_eq_none_of_stopped hstopped).symm.trans hbegin

section
variable {s t : State} {a : Agent} {n : Nat} {w : Option Reg} {f : FaultRecord}

/-- An access adds F_RACE records only (R44). -/
theorem code_eq_race_of_mem_faultsAfter {r : Reg} (hf : f ∈ s.faultsAfter r) (hnew : f ∉ s.faults) :
    f.code = .race := by
  obtain ⟨b, -, -, -, rfl⟩ := ((mem_faultsAfter s r f).mp hf).resolve_left hnew
  rfl

/-- A phase step that records another fault than F_RACE raises it against its own agent, and does nothing else. -/
theorem Effect.eq_raise_of_new_fault (e : Effect s a n w t) (hf : f ∈ t.faults) (hnew : f ∉ s.faults)
    (hcode : f.code ≠ .race) : t = s.raise f.code f.info ∧ f.agent = s.turn := by
  cases e with
  | readOn r k => exact absurd (code_eq_race_of_mem_faultsAfter hf hnew) hcode
  | writeOn r v k => exact absurd (code_eq_race_of_mem_faultsAfter hf hnew) hcode
  | writeLast r v => exact absurd (code_eq_race_of_mem_faultsAfter hf hnew) hcode
  | readLast r => exact absurd (code_eq_race_of_mem_faultsAfter hf hnew) hcode
  | pure res => exact absurd hf hnew
  | raise c x =>
    obtain rfl := ((mem_addFault _ _ _).mp hf).resolve_left hnew
    exact ⟨rfl, rfl⟩

/-- The agent in flight is still there after a fault. -/
theorem exists_raised_agent (ha : s.current = some a) (c : FaultCode) (x : FaultInfo) :
    ∃ b ∈ (s.raise c x).agents, b.id = s.turn := by
  obtain ⟨hmem, hid, -, -⟩ := current_spec ha
  exact ⟨{ a with stopped := true }, List.mem_map.mpr ⟨a, hmem, if_pos hid⟩, hid⟩

/-- A fault stops whoever has the number of its agent. -/
theorem raise_stops (s : State) (c : FaultCode) (x : FaultInfo) :
    ∀ b ∈ (s.raise c x).agents, b.id = s.turn → b.stopped = true :=
  forall_updated_of_id fun _ => rfl

end

/-- Settles O42: the step's effect is the fault itself, and giving the turn touches none of what is kept. -/
theorem faultsArePrecise : Obligations.FaultsArePrecise := by
  intro s t h f hf hnew hcode
  obtain ⟨-, rfl⟩ | ⟨u, a, hu, ha, e⟩ := step_effect h
  · exact absurd hf hnew
  · obtain ⟨-, -, -, -, -, -, -, hparams, hreg, hfaults, hhist, hcompleted, -⟩ := nextTurn_spec hu
    obtain ⟨rfl, hagent⟩ := e.eq_raise_of_new_fault hf (hfaults ▸ hnew) hcode
    have hkept : ∀ r, (u.raise f.code f.info).reg r = s.reg r := fun r => (u.raise_reg _ _ r).trans (hreg r)
    rw [hagent]
    exact ⟨⟨hkept, byteAt_congr hparams hkept⟩, hhist, hcompleted, exists_raised_agent ha _ _, raise_stops u _ _⟩

/-! ### Refused operations (R63, R121) -/

theorem rejection_eq_some_iff {nUart : Nat} {r : Request} {e : Rejection} :
    rejection nUart r = some e ↔ ∃ d o, r = .op d o ∧ decode nUart d o = .error e := by
  cases r with
  | op d o => cases hd : decode nUart d o <;> simp [rejection, hd]
  | rawRead addr width => exact iff_of_false nofun nofun
  | rawWrite addr width v => exact iff_of_false nofun nofun

/-- The program holds an operation that the decoder refuses with `e`. -/
def Program.refusedWith (nUart : Nat) (p : Program) (e : Rejection) : Prop :=
  ∃ x ∈ p, ∃ d o, Request.op d o ∈ x.1 :: x.2 ∧ decode nUart d o = .error e

theorem refusedWith_iff {nUart : Nat} {p : Program} {e : Rejection} :
    p.refusedWith nUart e ↔ ∃ x ∈ p, ∃ r ∈ x.1 :: x.2, rejection nUart r = some e := by
  refine exists_congr fun x => and_congr_right fun _ => ⟨?_, ?_⟩
  · rintro ⟨d, o, hmem, hd⟩
    exact ⟨_, hmem, rejection_eq_some_iff.mpr ⟨d, o, rfl, hd⟩⟩
  · rintro ⟨r, hmem, hr⟩
    obtain ⟨d, o, rfl, hd⟩ := rejection_eq_some_iff.mp hr
    exact ⟨d, o, hmem, hd⟩

theorem programRejection_none_iff {nUart : Nat} {p : Program} :
    p.rejection nUart = none ↔ ¬∃ e, p.refusedWith nUart e := by
  rw [programRejection_none]
  constructor
  · rintro h ⟨e, he⟩
    obtain ⟨x, hx, r, hr, he⟩ := refusedWith_iff.mp he
    exact absurd ((h x hx r hr).symm.trans he) nofun
  · exact fun h x hx r hr => Option.eq_none_iff_forall_ne_some.mpr fun e he =>
      h ⟨e, refusedWith_iff.mpr ⟨x, hx, r, hr, he⟩⟩

/-- A program that holds a refused operation gets the refusal of one of them. -/
theorem submit_refused {s : State} {p : Program} (h : ∃ e, p.refusedWith s.params.nUart e) :
    ∃ e, s.submit p = .error e ∧ p.refusedWith s.params.nUart e := by
  cases hs : s.submit p with
  | ok t => exact absurd h (programRejection_none_iff.mp (submit_ok.mp hs).1)
  | error e => exact ⟨e, rfl, refusedWith_iff.mpr (submit_error hs)⟩

theorem keepsRegisters_withAgents (s : State) (l : List Agent) : s.keepsRegisters { s with agents := l } := by
  have hreg : ∀ r, State.reg { s with agents := l } r = s.reg r := fun r => by cases r <;> rfl
  exact ⟨hreg, byteAt_congr rfl hreg⟩

/-- Settles O43: a submission answers a refusal or a state with the program's agents added. -/
theorem refusedProgramsHaveNoRun : Obligations.RefusedProgramsHaveNoRun := by
  intro s p
  refine ⟨submit_refused, fun hnone => ?_, fun w hw ⟨e, he⟩ => withFetchWord_refused hw he⟩
  obtain ⟨new, hfold, hprogram, hnew, hids⟩ := spawnAll_spec p s
  refine ⟨_, submit_ok.mpr ⟨programRejection_none_iff.mpr hnone, hfold.symm⟩, ⟨rfl, rfl, rfl, rfl⟩,
    keepsRegisters_withAgents s _, rfl, rfl, rfl, rfl, new, rfl, hprogram, fun a ha => ?_, hids⟩
  obtain ⟨hph, hdone, hstopped, hlt⟩ := hnew a ha
  exact ⟨hph, hdone, hstopped, fun b hb => (hlt b hb).ne⟩

theorem checkIndex_of_le {n : Nat} {idx : BitVec 4} (h : n ≤ idx.toNat) (x : Outcome) :
    checkIndex (decide (idx.toNat < n)) x = .refused (.rejected .index) :=
  if_neg (by simpa using h)

/-- Settles O30: the check of `exec` stands before the operation. -/
theorem indexOutOfRangeIsRefused : Obligations.IndexOutOfRangeIsRefused := by
  intro s idx
  refine ⟨fun k hk => ?_, fun src m n h => checkIndex_of_le h _⟩
  cases k with
  | uart => exact ⟨checkIndex_of_le hk _, checkIndex_of_le hk _⟩
  | spi => exact ⟨checkIndex_of_le hk _, checkIndex_of_le hk _⟩

/-! ### The invariant at reset and after a submission (R121, R134) -/

theorem resetWith_inv {p : Params} (hp : p.wf = true) (v : ResetValues) : (State.resetWith p v).Inv :=
  ⟨hp, List.nodup_nil, List.nodup_nil, nofun, nofun⟩

/-- A submission adds agents at phase 0 with new numbers and admitted operations, so it keeps the invariant. -/
theorem submit_inv {s t : State} {p : Program} (hs : s.Inv) (h : s.submit p = .ok t) : t.Inv := by
  obtain ⟨hnone, rfl⟩ := submit_ok.mp h
  obtain ⟨new, hfold, rfl, hnew, hids⟩ := spawnAll_spec p s
  rw [hfold]
  refine ⟨hs.params, ?_, hs.faults, ?_, ?_⟩
  · have hdisjoint : (s.agents.map fun a => a.id).Disjoint (new.map fun a => a.id) := by
      rintro _ hold hmem
      obtain ⟨b, hb, rfl⟩ := List.mem_map.mp hold
      obtain ⟨a, ha, hid⟩ := List.mem_map.mp hmem
      obtain ⟨-, -, -, hlt⟩ := hnew a ha
      exact (hlt b hb).ne' hid
    simpa [State.idsDistinct] using hs.ids.append hids hdisjoint
  · exact List.forall_mem_append.mpr ⟨hs.phases, fun a ha => phaseOk_of_ph_zero (hnew a ha).1⟩
  · refine List.forall_mem_append.mpr ⟨hs.admitted, fun a ha => firstRejection_none.mpr ?_⟩
    exact programRejection_none.mp hnone (a.op, a.rest) (List.mem_map_of_mem ha)

/-- Settles O47: reset has no agent and no fault, and its default parameters are admitted. -/
theorem resetAndSubmitHaveTheInvariant : Obligations.ResetAndSubmitHaveTheInvariant :=
  ⟨fun _ v hp => resetWith_inv hp v, resetWith_inv (by decide) _, fun _ _ _ hs h => submit_inv hs h⟩

end Sys2Proof.Machine
end

section
/-! PROOFS of the statements of 70_reset_and_hazards.md: the fields of the state right after reset, one equation per field
(R133, R134). -/

namespace Sys2Proof.Machine

open Sys2Proof

@[simp] theorem State.resetWith_uartBgr (p : Params) (v : ResetValues) :
    (State.resetWith p v).uartBgr = v.uartBgr := rfl

@[simp] theorem State.resetWith_spiClk0 (p : Params) (v : ResetValues) :
    (State.resetWith p v).spiClk0 = v.spiClk0 := rfl

@[simp] theorem State.resetWith_spiClk1 (p : Params) (v : ResetValues) :
    (State.resetWith p v).spiClk1 = v.spiClk1 := rfl

@[simp] theorem State.resetWith_spiBgr (p : Params) (v : ResetValues) :
    (State.resetWith p v).spiBgr = v.spiBgr := rfl

@[simp] theorem State.resetWith_faults (p : Params) (v : ResetValues) : (State.resetWith p v).faults = [] := rfl

@[simp] theorem State.resetWith_agents (p : Params) (v : ResetValues) : (State.resetWith p v).agents = [] := rfl

@[simp] theorem State.resetWith_history (p : Params) (v : ResetValues) : (State.resetWith p v).history = [] := rfl

/-- Settles O12: each clause is the equation of its field, and `State.reset` is the case of the default parameters and the
drawn reset values (R9, R133). -/
theorem resetLeaves : Obligations.ResetLeaves := by
  refine ⟨fun p v => ?_, Config.defaultParams, ResetValues.drawn, rfl⟩
  exact ⟨State.resetWith_uartBgr p v, State.resetWith_spiClk0 p v, State.resetWith_spiClk1 p v,
    State.resetWith_spiBgr p v, State.resetWith_faults p v, State.resetWith_agents p v, State.resetWith_history p v⟩

end Sys2Proof.Machine
end

section
/-! PROOFS of the statements of 95_test_vectors.md on fixed descriptors, and of the code tables of 30_encoding.md section 2:
an admitted descriptor is its operation's encoding, a refused one selects no row or has an index that names no peripheral
(R63); decoding takes the code of a variant back to the variant (R58 to R60). -/

namespace Sys2Proof

/-- The field formats refuse a descriptor that they give no row (R50 to R56, R63). -/
theorem decode_of_rowByFields_none {d : Word} (h : rowByFields d = none) (nUart : Nat) (o : Operands) :
    decode nUart d o = .error .descriptor :=
  decode_of_decodeRow_none ((fieldFormatsAgreeWithTheRows d).symm.trans h) nUart o

/-- The descriptor of an operation whose index names no peripheral is refused for the index, whatever the operands. -/
theorem decode_encodeDesc_of_not_wf {nUart : Nat} {i : Instr} (h : i.wf nUart = false) (o : Operands) :
    decode nUart (encodeDesc i) o = .error .index := by
  simp [decode_encodeDesc, h]

theorem map_decodeSrc_map_encodeSrc (l : List SpiClockSource) : (l.map encodeSrc).map decodeSrc = l.map some := by
  simp

end Sys2Proof

namespace Sys2Proof.Machine

open Sys2Proof

/-- Settles O5: each descriptor is the encoding of an operation (of one on an index that does not exist in V-Q9 and V-Q10),
or has a field that selects no row: OFF in V-D3, FUNC in V-D5, KIND in V-D6 and V-C6, a must-be-zero bit in V-D8, CLASS in
V-D10. -/
theorem specDescriptorsDecode : Obligations.SpecDescriptorsDecode :=
  ⟨decodeOfEncodeIsTheInstruction 6 .rdUartBgr rfl,
    decodeOfEncodeIsTheInstruction 6 (.wrSpiClk1 0) rfl,
    decode_of_rowByFields_none rfl 6 .zero,
    decodeOfEncodeIsTheInstruction 6 (.spiDeassertReset 15 0) rfl,
    decode_of_rowByFields_none rfl 6 .zero,
    decode_of_rowByFields_none rfl 6 .zero,
    decodeOfEncodeIsTheInstruction 6 (.spiclkMSet 0 0) rfl,
    decode_of_rowByFields_none rfl 6 .zero,
    decodeOfEncodeIsTheInstruction 6 (.spiPowerdown 1) rfl,
    decode_of_rowByFields_none rfl 6 .zero,
    decode_encodeDesc_of_not_wf (i := .spiBringup 2) rfl .zero,
    decode_encodeDesc_of_not_wf (i := .uartBringup 6) rfl .zero,
    decode_of_rowByFields_none rfl 6 .zero⟩

/-- Settles O6: the encoders' columns are their definitions; the decoders take them back to the variants, and the codes that
are left are the ones without a source (R59). -/
theorem enumerationCodes : Obligations.EnumerationCodes := by
  refine ⟨rfl, ?_, rfl, Function.LeftInverse.list_map decodeN_encodeN [.n1, .n2, .n4, .n8]⟩
  have hassigned : [0, 1, 2, 3, 4].map decodeSrc = _ :=
    map_decodeSrc_map_encodeSrc [.hosc, .pllPeri1x, .pllPeri2x, .pllAudio1Div2, .pllAudio1Div5]
  have hunassigned : [5, 6, 7].map decodeSrc = [none, none, none] := by
    simp [decodeSrc_eq_none_iff]
  exact congrArg₂ (· ++ ·) hassigned hunassigned

end Sys2Proof.Machine
end
